-- ==== Sys2Proof/Word.lean ====
section
/-! DEFINITION. The widths of the block: a register is one 32-bit number (spec/10_state.md section 2), an entry of
the data window is one byte (R57), and a register is named by a number 0x00 to 0x1F (R70). -/

namespace Sys2Proof

/-- A byte of the data window or of a packet (R9). -/
abbrev Byte := BitVec 8

/-- The value of a register (spec/10_state.md section 2). -/
abbrev Word := BitVec 32

/-- A register number, 0x00 to 0x1F: the whole map (R70, R79). -/
abbrev RegNum := BitVec 5

end Sys2Proof
end

