-- ==== Sys2Proof/Config.lean ====
section
/-! DEFINITION. The parameters the spec leaves open (spec/00_scope.md R8, spec/92_eei_decisions.md D19, D23,
D6): each is opaque, so that no claim can rest on a value of it. The fixed constants of R7 stand in
Machine/Constants.lean. -/

namespace Sys2Proof.Config

/-- How far `MAX_BUF` exceeds its least value: open (D23), so nothing is known of it. -/
opaque extraBuf : Nat

/-- `MAX_BUF`, the size in bytes of the data window: open, "natural, at least 53" (R8, D23). -/
def maxBuf : Nat := extraBuf + 53

/-- `TABLE5_ACCEPTS(key, payload)`: open, total, a function of its two arguments alone (R8, D19). -/
opaque table5Accepts : Word → List Byte → Bool

/-- `TABLE2_ACCEPTS(key, payload)`: open, total, a function of its two arguments alone (R8, D19). -/
opaque table2Accepts : Word → List Byte → Bool

/-- The byte that index `i` of the data window holds after reset number `draw`, when nothing has written it since:
unspecified, any byte value (R57, R340, U11). A free value. -/
opaque freeByte : (draw i : Nat) → Byte

/-- What the host's read number `reads` returns for an index `i` at which `DATA` has no byte: any value (spec/93 U4;
log 9). A free value, drawn anew for every read. -/
opaque absentByte : (reads i : Nat) → Byte

end Sys2Proof.Config
end

