-- ==== Sys2Proof/Syntax.lean ====
section
/-! DEFINITION. The commands of the block (spec/30_encoding.md R109, one constructor per row of
spec/opcode_table.json), the enumerations of R12, the events that reach the block from outside
(spec/20_memory.md R77, R78; spec/70_reset_and_hazards.md R340), and the host's pseudo-instructions (R120, R121). -/

namespace Sys2Proof

/-- `AalKind` (R12), in the order of the codes of R114. -/
inductive AalKind where
  | unknown | aal1 | aal2 | aal34 | aal5 | userAal | signallingAal | oamCell
deriving DecidableEq, Repr

/-- `RefPoint` (R12, R117). -/
inductive RefPoint where
  | uni | nni
deriving DecidableEq, Repr

/-- The eight operation codes that select a command (R109). -/
inductive Opcode where
  | hecCheck | hdrParse | oamClassify | aal5Trailer | cellCount | dispatch | processCell | processPdu
deriving DecidableEq, Repr

/-- A command: its operation and the fields of the command word that it reads (R109). A field a command does not
read is no part of it. -/
inductive Instr where
  /-- `HEC_CHECK` (R140) -/
  | hecCheck
  /-- `HDR_PARSE` (R170) -/
  | hdrParse (ref : RefPoint) (hecp : Bool)
  /-- `OAM_CLASSIFY` (R180): its operands stand in `REQ_ARG` (R113) -/
  | oamClassify
  /-- `AAL5_TRAILER` (R200) -/
  | aal5Trailer (aal : AalKind)
  /-- `CELL_COUNT` (R206) -/
  | cellCount
  /-- `DISPATCH` (R240) -/
  | dispatch (noph hintv : Bool) (aal : AalKind)
  /-- `PROCESS_CELL` (R280) -/
  | processCell (ref : RefPoint) (hecp noph hintv : Bool) (aal : AalKind)
  /-- `PROCESS_PDU` (R290) -/
  | processPdu (noph hintv : Bool) (aal : AalKind)
deriving DecidableEq, Repr

/-- The fields of a command word (R108) with the defaults of the assembler (R120). -/
structure CommandFields where
  op    : Opcode
  ref   : RefPoint := .uni
  hecp  : Bool := false
  noph  : Bool := false
  hintv : Bool := false
  aal   : AalKind := .unknown
deriving DecidableEq, Repr

/-- What reaches the block from outside, one at a time (R81): the host accesses of R77 and the reset of R340. -/
inductive Event where
  /-- the host writes a whole register; a write to `REQ_CMD` starts a command (R78) -/
  | writeReg (n : RegNum) (v : Word)
  /-- the host reads a whole register -/
  | readReg (n : RegNum)
  /-- the host writes one byte of the data window -/
  | writeData (i : Nat) (b : Byte)
  /-- the host reads one byte of the data window -/
  | readData (i : Nat)
  /-- the platform asserts the block's one reset, from whatever source (`RESET_SOURCE` is open, D6) -/
  | reset
deriving DecidableEq, Repr

/-- The operations a host program is written in (R120, R121). -/
inductive HostOp where
  /-- `LOAD b0 b1 ... b(n-1)` -/
  | load (bytes : List Byte)
  /-- `REPLEN n` -/
  | replen (n : Word)
  /-- `ARG v` -/
  | arg (v : Word)
  /-- `OAM_CLASSIFY vci, pti` -/
  | oamClassify (vci : BitVec 16) (pti : BitVec 3)
  /-- a command with its modifiers, without a hint -/
  | command (c : CommandFields)
  /-- a command with the modifier `hint=v` -/
  | hinted (c : CommandFields) (v : Word)
  /-- a raw word written to `REQ_CMD` -/
  | word (w : Word)
  /-- `READ <register>` -/
  | read (n : RegNum)
deriving DecidableEq, Repr

end Sys2Proof
end

