-- ==== Sys2Proof/WellFormed.lean ====
section
/-! DEFINITION. Which terms of the syntax stand for something of the spec. -/

namespace Sys2Proof

/-- Every command is well formed: the types of its fields hold exactly the legal values, "All eight codes are legal
in a command" (R114), both values of each flag are (R112), and a field a command does not read is no part of it
(R109). -/
def Instr.wellFormed : Instr → Bool
  | .hecCheck => true
  | .hdrParse _ _ => true
  | .oamClassify => true
  | .aal5Trailer _ => true
  | .cellCount => true
  | .dispatch _ _ _ => true
  | .processCell _ _ _ _ _ => true
  | .processPdu _ _ _ => true

/-- An event is well formed when the spec says something of it. `DATA` is written at the indices below `MAX_BUF` (R57,
R77). The host may read any index: one below `MAX_BUF` is a byte of `DATA` (R77), and a reported byte that does not exist
has any value (spec/93 U4; log 9). Every register number exists (R79). -/
def Event.wellFormed : Event → Bool
  | .writeReg _ _ => true
  | .readReg _ => true
  | .writeData i _ => decide (i < Config.maxBuf)
  | .readData _ => true
  | .reset => true

/-- A host operation is well formed when its bytes fit the data window and their number fits `REQ_CAPLEN` (R121,
R343). The modifier `hint=` stands for itself: a command written without it has `HINTV` = 0 (R120). -/
def HostOp.wellFormed : HostOp → Bool
  | .load bytes => decide (bytes.length ≤ Config.maxBuf) && decide (bytes.length < 2 ^ 32)
  | .replen _ => true
  | .arg _ => true
  | .oamClassify _ _ => true
  | .command c => !c.hintv
  | .hinted _ _ => true
  | .word _ => true
  | .read _ => true

end Sys2Proof
end

