-- ==== Sys2Proof/Decode.lean ====
section
/-! DEFINITION. Decoding a command word (spec/30_encoding.md R108, R119), the codes of R114 and R117, and the
encoder (R120). A command is a 32-bit value, not a sequence of bytes: how the host's bus lays it out is outside the
block (R76), so the decoder reads the value. -/

namespace Sys2Proof

/-- `AalKind` codes (R114). -/
def AalKind.code : AalKind → BitVec 3
  | .unknown => 0
  | .aal1 => 1
  | .aal2 => 2
  | .aal34 => 3
  | .aal5 => 4
  | .userAal => 5
  | .signallingAal => 6
  | .oamCell => 7

/-- The kind a code stands for; all eight codes are legal (R114). -/
def AalKind.ofCode (c : BitVec 3) : AalKind :=
  match c.toNat with
  | 0 => .unknown
  | 1 => .aal1
  | 2 => .aal2
  | 3 => .aal34
  | 4 => .aal5
  | 5 => .userAal
  | 6 => .signallingAal
  | _ => .oamCell

/-- `REQ_CMD.REF` code (R117). -/
def RefPoint.code : RefPoint → BitVec 1
  | .uni => 0
  | .nni => 1

/-- The reference point a `REF` bit stands for (R117). -/
def RefPoint.ofBit (b : Bool) : RefPoint := if b then .nni else .uni

/-- Operation codes (R109). -/
def Opcode.code : Opcode → BitVec 4
  | .hecCheck => 0x1
  | .hdrParse => 0x2
  | .oamClassify => 0x3
  | .aal5Trailer => 0x4
  | .cellCount => 0x5
  | .dispatch => 0x6
  | .processCell => 0x7
  | .processPdu => 0x8

/-- The operation of a command (R109). -/
def Instr.op : Instr → Opcode
  | .hecCheck => .hecCheck
  | .hdrParse _ _ => .hdrParse
  | .oamClassify => .oamClassify
  | .aal5Trailer _ => .aal5Trailer
  | .cellCount => .cellCount
  | .dispatch _ _ _ => .dispatch
  | .processCell _ _ _ _ _ => .processCell
  | .processPdu _ _ _ => .processPdu

/-- Why a word is a bad command (R119): a reserved bit is set (R111), or `OP` is reserved (R110). -/
inductive BadWord where
  | reservedBits
  | reservedOp
deriving DecidableEq, Repr

/-- What a command word decodes to: one of the eight commands, or "bad" by name (R119). -/
inductive Decoded where
  | instr (i : Instr)
  | bad (why : BadWord)
deriving DecidableEq, Repr

/-- Field `OP` of a command word (R108). -/
def opField (w : Word) : BitVec 4 := w.extractLsb' 0 4

/-- Bits 31:11 of a command word (R108). -/
def reservedField (w : Word) : BitVec 21 := w.extractLsb' 11 21

/-- Field `REF` (R108). -/
def refField (w : Word) : RefPoint := RefPoint.ofBit (w.getLsbD 4)

/-- Field `HECP` (R108, R112). -/
def hecpField (w : Word) : Bool := w.getLsbD 5

/-- Field `NOPH` (R108, R112). -/
def nophField (w : Word) : Bool := w.getLsbD 6

/-- Field `HINTV` (R108, R112). -/
def hintvField (w : Word) : Bool := w.getLsbD 7

/-- Field `AAL` (R108). -/
def aalField (w : Word) : AalKind := AalKind.ofCode (w.extractLsb' 8 3)

/-- Decoding a command word (R119): reserved bits first, then `OP`, then the fields the command reads (R109). -/
def decodeWord (w : Word) : Decoded :=
  if reservedField w = 0#21 then
    match (opField w).toNat with
    | 0x1 => .instr .hecCheck
    | 0x2 => .instr (.hdrParse (refField w) (hecpField w))
    | 0x3 => .instr .oamClassify
    | 0x4 => .instr (.aal5Trailer (aalField w))
    | 0x5 => .instr .cellCount
    | 0x6 => .instr (.dispatch (nophField w) (hintvField w) (aalField w))
    | 0x7 => .instr (.processCell (refField w) (hecpField w) (nophField w) (hintvField w) (aalField w))
    | 0x8 => .instr (.processPdu (nophField w) (hintvField w) (aalField w))
    | _ => .bad .reservedOp
  else .bad .reservedBits

/-- A flag as a word whose bit 0 is the flag. -/
def flagWord (b : Bool) : Word := (BitVec.ofBool b).setWidth 32

/-- The word of a command with its modifiers (R120):
`OP or (REF << 4) or (HECP << 5) or (NOPH << 6) or (HINTV << 7) or (AAL << 8)`. -/
def CommandFields.toWord (c : CommandFields) : Word :=
  c.op.code.setWidth 32 ||| (c.ref.code.setWidth 32 <<< 4) ||| (flagWord c.hecp <<< 5) ||| (flagWord c.noph <<< 6) |||
    (flagWord c.hintv <<< 7) ||| (c.aal.code.setWidth 32 <<< 8)

/-- The fields of a command; a field it does not read has the assembler's default (R109, R120). -/
def Instr.fields : Instr → CommandFields
  | .hecCheck => { op := .hecCheck }
  | .hdrParse ref hecp => { op := .hdrParse, ref := ref, hecp := hecp }
  | .oamClassify => { op := .oamClassify }
  | .aal5Trailer aal => { op := .aal5Trailer, aal := aal }
  | .cellCount => { op := .cellCount }
  | .dispatch noph hintv aal => { op := .dispatch, noph := noph, hintv := hintv, aal := aal }
  | .processCell ref hecp noph hintv aal =>
    { op := .processCell, ref := ref, hecp := hecp, noph := noph, hintv := hintv, aal := aal }
  | .processPdu noph hintv aal => { op := .processPdu, noph := noph, hintv := hintv, aal := aal }

/-- The command word of a command (R108, R120). -/
def encode (i : Instr) : Word := i.fields.toWord

/-- The bits of the command word that a command reads, its operation among them (R109): the bits that are not `-` in
its row of spec/opcode_table.json. -/
def Instr.readMask : Instr → Word
  | .hecCheck => 0xFFFFF80F
  | .hdrParse _ _ => 0xFFFFF83F
  | .oamClassify => 0xFFFFF80F
  | .aal5Trailer _ => 0xFFFFFF0F
  | .cellCount => 0xFFFFF80F
  | .dispatch _ _ _ => 0xFFFFFFCF
  | .processCell _ _ _ _ _ => 0xFFFFFFFF
  | .processPdu _ _ _ => 0xFFFFFFCF

/-- The command word that `nbits` bits numbered as spec/opcode_table.json numbers them stand for: every bit above
them is 0. -/
def tableWord (nbits w : Nat) : Word := BitVec.ofNat 32 (w % 2 ^ nbits)

/-- The command the decoder reads from a row's word. -/
def decodeTableWord (nbits w : Nat) : Option Instr :=
  match decodeWord (tableWord nbits w) with
  | .instr i => some i
  | .bad _ => none

end Sys2Proof
end

