-- ==== Sys2Proof/Machine/Constants.lean ====
section
/-! DEFINITION. The fixed constants of spec/00_scope.md R7 and R203. -/

namespace Sys2Proof.Config

/-- `COSET_LEADER` (R7, R141). -/
abbrev cosetLeader : Byte := 0x55#8

/-- `HEC_POLY` without its leading term: `x^8 + x^2 + x + 1` (R7, R147). PRESUMED by the spec itself (G1). -/
abbrev hecPoly : Byte := 0x07#8

/-- `EPOS_NO_ERROR` (R7, R142). -/
abbrev eposNoError : Int := -128

/-- `EPOS_UNCORRECTABLE` (R7, R142). -/
abbrev eposUncorrectable : Int := 128

/-- `AAL5_TRAILER_BYTES` (R7). -/
abbrev trailerBytes : Nat := 8

/-- `AAL5_MAX_PAD` (R7). -/
abbrev maxPad : Nat := 47

/-- `CRC32_RESIDUE` (R7, R204). -/
abbrev crcResidue : Word := 0xC704DD7B#32

/-- `CRC32_POLY` (R7, R203). PRESUMED by the spec itself (G3). -/
abbrev crcPoly : Word := 0x04C11DB7#32

/-- The initial value of the CRC register (R203). PRESUMED by the spec itself (G3). -/
abbrev crcInit : Word := 0xFFFFFFFF#32

/-- `CELL_PAYLOAD_BYTES` (R7, R206). -/
abbrev cellPayloadBytes : Nat := 48

/-- `SNIFF_MIN_LEN`: the sniff runs for a payload of at least so many bytes (R7, R243). -/
abbrev sniffMinLen : Nat := 8

/-- `AAL2_SUBHDR_BYTES` (R7, R252). -/
abbrev aal2SubhdrBytes : Nat := 4

/-- `ETH_PAD_BYTES` (R7, R246). -/
abbrev ethPadBytes : Nat := 2

/-- `PPP_IP_PROTO` (R7, R245). PRESUMED by the spec itself (G4). -/
abbrev pppIpProto : BitVec 16 := 0x0021#16

end Sys2Proof.Config
end

