-- ==== Sys2Proof/Machine/State.lean ====
section
/-! DEFINITION. What the machine holds (spec/10_state.md R30): the request registers, the result registers and the
data window, with the model's own record of inputs, outputs and draws; the reset (R340); why a step can stop. The
two constant tables of R55 and R56 cannot be written and are definitions of Machine/Hec.lean. -/

namespace Sys2Proof.Machine

/-- The data window as the list of the bytes written since the last reset, by rising index. An index that is not
listed has not been written: the list says nothing of it (log 5), and it reads as a free value (log 4). -/
abbrev Memory := List Host.Cell

/-- The request registers (R34 to R37). -/
structure Request where
  /-- `REQ_CMD` (R34) -/
  cmd    : Word
  /-- `REQ_ARG` (R35) -/
  arg    : Word
  /-- `REQ_CAPLEN` (R36) -/
  caplen : Word
  /-- `REQ_REPLEN` (R37) -/
  replen : Word
deriving DecidableEq, Repr

/-- The result registers (R38 to R53). -/
structure Results where
  /-- `RES_STATUS` (R38) -/
  status : Word
  /-- `RES_DIAG` (R39) -/
  diag   : Word
  /-- `RES_HDR0` (R40) -/
  hdr0   : Word
  /-- `RES_HDR1` (R41) -/
  hdr1   : Word
  /-- `RES_HEC` (R42) -/
  hec    : Word
  /-- `RES_CLASS` (R43) -/
  cls    : Word
  /-- `RES_TRL0` (R44) -/
  trl0   : Word
  /-- `RES_TRL1` (R45) -/
  trl1   : Word
  /-- `RES_AAL5ST` (R46) -/
  aal5st : Word
  /-- `RES_CELLS` (R47) -/
  cells  : Word
  /-- `RES_ROUTE` (R48) -/
  route  : Word
  /-- `RES_KEY` (R49) -/
  key    : Word
  /-- `RES_OUTOFF` (R50) -/
  outoff : Word
  /-- `RES_OUTLEN` (R51) -/
  outlen : Word
  /-- `RES_OUTREP` (R52) -/
  outrep : Word
  /-- `RES_CRCREG` (R53) -/
  crcreg : Word
deriving DecidableEq, Repr

/-- The request registers after reset (R340). -/
def Request.zero : Request := { cmd := 0, arg := 0, caplen := 0, replen := 0 }

/-- Every result register at 0: after reset (R340), and at the start of every command (R59). -/
def Results.zero : Results :=
  { status := 0, diag := 0, hdr0 := 0, hdr1 := 0, hec := 0, cls := 0, trl0 := 0, trl1 := 0, aal5st := 0, cells := 0,
    route := 0, key := 0, outoff := 0, outlen := 0, outrep := 0, crcreg := 0 }

structure State where
  /-- the request registers (R34 to R37) -/
  req : Request
  /-- the result registers (R38 to R53) -/
  res : Results
  /-- `DATA` (R57) -/
  data : Memory
  /-- MODEL'S OWN (log 4): which draw of unspecified bytes the window holds where nothing has been written -/
  resetDraw : Nat
  /-- MODEL'S OWN (log 1): the accesses and resets to come, the next first -/
  pending : List Event
  /-- MODEL'S OWN (log 3): the values the host's reads returned, the latest first -/
  returned : List Word
  /-- MODEL'S OWN (log 16): how many commands of this run ended in `TOO_SHORT` (spec/93 U1) -/
  tooShortCount : Nat
  /-- MODEL'S OWN (log 16): how many commands of this run were bad (spec/93 U6, U7, U8) -/
  badCount : Nat
deriving DecidableEq, Repr

/-- The machine right after reset (R340): every register 0, nothing known of `DATA`, no command started. The fields
of the model's own start empty and at 0 (DESIGN CHOICE, logs 1, 3, 4, 16). -/
def State.reset : State :=
  { req := Request.zero, res := Results.zero, data := [], resetDraw := 0, pending := [], returned := [],
    tooShortCount := 0, badCount := 0 }

/-- Why the machine stops. -/
inductive Fault where
  /-- raised by a host write to `DATA` at an index at or above `MAX_BUF`: no such byte exists (R57, R77). No command and
  no read raises it. Safe: the machine stops where the spec gives no behaviour (log 9). -/
  | noSuchDataByte
deriving DecidableEq, Repr

/-- Why a step has no meaning. -/
inductive Refusal where
  /-- raised by an arm of `exec` for a command without a meaning: no arm is left so. Safe. -/
  | notModelled (mnemonic : String)
deriving DecidableEq, Repr

end Sys2Proof.Machine
end

