-- ==== Sys2Proof/Machine/Ops.lean ====
section
/-! DEFINITION. The shared operations: bit fields of a register (R9, R11), the data window (R10, R57, R77), the
register map (R79), the updates of a state, and how a command starts and ends (R59, R311, R312, R313): the block's
exceptions are these, and there is no return from them (R315, R316). -/

namespace Sys2Proof.Machine

/-! ### Bit fields -/

/-- `r[lo+w-1:lo]` (R9). -/
def getField (r : Word) (lo w : Nat) : BitVec w := r.extractLsb' lo w

/-- The bits that a field of `w` bits at `lo` occupies. -/
def fieldMask (lo w : Nat) : Word := ((BitVec.allOnes w).setWidth 32) <<< lo

/-- `REG.FIELD <- v`: writes the field at `lo` and leaves the other bits of the register unchanged (R11). -/
def putField (r : Word) (lo : Nat) {w : Nat} (v : BitVec w) : Word :=
  (r &&& ~~~ fieldMask lo w) ||| ((v.setWidth 32) <<< lo)

/-- A flag as a one-bit field value. -/
def bit (b : Bool) : BitVec 1 := BitVec.ofBool b

/-! ### The data window -/

/-- The byte last written at index `i` since the last reset; none when there was no such write. -/
def Memory.read? : Memory → Nat → Option Byte
  | [], _ => none
  | (a, b) :: m, i => if i = a then some b else Memory.read? m i

/-- The window after a write of byte `b` at index `i`, in the canonical form. -/
def Memory.write : Memory → Nat → Byte → Memory
  | [], i, b => [(i, b)]
  | (a, c) :: m, i, b =>
    if i < a then (i, b) :: (a, c) :: m
    else if i = a then (i, b) :: m
    else (a, c) :: Memory.write m i b

/-- The canonical form: indices strictly rising. An index that is not listed has not been written, so no entry can
equal what an unlisted index holds (log 5). -/
def Memory.wf : Memory → Bool
  | [] => true
  | [_] => true
  | (a, _) :: (b, c) :: m => decide (a < b) && Memory.wf ((b, c) :: m)

/-- Every listed index exists: `DATA` has the indices below `MAX_BUF` (R57). -/
def Memory.inWindow (m : Memory) : Bool := m.all fun c => decide (c.1 < Config.maxBuf)

/-- What index `i` of `DATA` holds when nothing has been written there since the last reset: a free value (R57,
R340, U11). -/
def State.unwrittenByte (s : State) (i : Nat) : Byte := Config.freeByte s.resetDraw i

/-- `DATA[i]` (R10): the byte last written there (R77). -/
def State.dataByte (s : State) (i : Nat) : Byte := (s.data.read? i).getD (s.unwrittenByte i)

/-- What a host read of `DATA` at index `i` returns: below `MAX_BUF` the byte last written there (R77), also where the
index lies in the reported but not captured part of a window (DESIGN CHOICE, log 21: spec/93 U4 calls that 'any value');
at any other index no byte exists and the value is free (spec/93 U4; DESIGN CHOICE, log 9). -/
def State.hostByte (s : State) (i : Nat) : Byte :=
  if i < Config.maxBuf then s.dataByte i else Config.absentByte s.returned.length i

/-- `DATA[off..off+len)` (R10, R13). -/
def State.dataSlice (s : State) (off len : Nat) : List Byte := (List.range len).map fun k => s.dataByte (off + k)

/-- `be16(i)` (R10, R74). -/
def State.be16 (s : State) (i : Nat) : BitVec 16 := s.dataByte i ++ s.dataByte (i + 1)

/-- `be32(i)` (R10, R74). -/
def State.be32 (s : State) (i : Nat) : Word :=
  s.dataByte i ++ s.dataByte (i + 1) ++ s.dataByte (i + 2) ++ s.dataByte (i + 3)

/-! ### The updates of a state -/

/-- The state with another set of request registers. -/
def State.setReq (s : State) (q : Request) : State := { s with req := q }

/-- The state with `REQ_CMD` holding `w` (R34). -/
def State.setCmd (s : State) (w : Word) : State := s.setReq { s.req with cmd := w }

/-- The state with another set of result registers. -/
def State.setRes (s : State) (r : Results) : State := { s with res := r }

/-- The state after the host wrote byte `b` at index `i` of `DATA` (R77). -/
def State.writeByte (s : State) (i : Nat) (b : Byte) : State := { s with data := s.data.write i b }

/-- The state with other events to come. -/
def State.setPending (s : State) (es : List Event) : State := { s with pending := es }

/-- The state after a host read returned `v`. -/
def State.giveHost (s : State) (v : Word) : State := { s with returned := v :: s.returned }

/-- The state with the run's record of `TOO_SHORT` one higher when `b` (U1). -/
def State.noteTooShort (s : State) (b : Bool) : State := { s with tooShortCount := s.tooShortCount + b.toNat }

/-- The state with the run's record of bad commands one higher (U6). -/
def State.noteBad (s : State) : State := { s with badCount := s.badCount + 1 }

/-! ### Reset -/

/-- The platform's reset (R340): every register 0, `DATA` unspecified (a new draw), no command started. What the
host has read, what is to come and the run's records are not the block's and stay (log 6). -/
def State.afterReset (s : State) : State :=
  { State.reset with
    resetDraw := s.resetDraw + 1
    pending := s.pending
    returned := s.returned
    tooShortCount := s.tooShortCount
    badCount := s.badCount }

/-! ### How a command runs -/

/-- Where a command stands after a part of its pseudocode: it goes on, or `raise TooShort` ended it (R11, R312). -/
inductive Flow where
  /-- the command goes on with these results -/
  | running (r : Results)
  /-- the command has ended with these results -/
  | ended (r : Results)
deriving DecidableEq, Repr

/-- The results written so far. -/
def Flow.results : Flow → Results
  | .running r => r
  | .ended r => r

/-- `raise TooShort` ended the command. -/
def Flow.isEnded : Flow → Bool
  | .running _ => false
  | .ended _ => true

/-- The next part of the pseudocode, which runs only when the command has not ended (R312). -/
def Flow.andThen (f : Flow) (g : Results → Flow) : Flow :=
  match f with
  | .running r => g r
  | .ended r => .ended r

/-- `raise TooShort`: sets the bit and ends the command; the results written before it are kept (R312). -/
def raiseTooShort (r : Results) : Flow := .ended { r with diag := putField r.diag 0 (bit true) }

/-- The value of `RES_STATUS` at the end of a command with word `cmd` (R38, R59, R311). -/
def statusWord (cmd : Word) (isBad : Bool) : Word :=
  putField (putField (putField 0 0 (bit true)) 1 (bit isBad)) 4 (opField cmd)

/-- A bad command (R311): clears the results, sets `BAD_CMD`, `LASTOP` and `DONE`, and does nothing else. -/
def badCommand (s : State) : State :=
  (s.setRes { Results.zero with status := statusWord s.req.cmd true }).noteBad

/-- The end of a command that was not bad (R59): its results, with `LASTOP` and `DONE` set. -/
def endCommand (s : State) (f : Flow) : State :=
  (s.setRes { f.results with status := statusWord s.req.cmd false }).noteTooShort f.isEnded

/-- A command (R59): a capture longer than the window makes it bad (R311); otherwise its body runs on cleared
results, as one step. -/
def runCommand (s : State) (body : State → Results → Flow) : State :=
  if Config.maxBuf < s.req.caplen.toNat then badCommand s else endCommand s (body s Results.zero)

end Sys2Proof.Machine
end

