-- ==== Sys2Proof/Machine/Operands.lean ====
section
/-! DEFINITION. The operands of the commands: the lengths, the fields of `REQ_ARG` (R113), the payload window (R13),
and the named fields of the result registers (spec/10_state.md R38 to R48). -/

namespace Sys2Proof.Machine

/-- `n = REQ_CAPLEN` (R36). -/
def State.capLen (s : State) : Nat := s.req.caplen.toNat

/-- `r = REQ_REPLEN` (R37). -/
def State.repLen (s : State) : Nat := s.req.replen.toNat

/-- `vci = REQ_ARG[15:0]` (R113). -/
def State.argVci (s : State) : BitVec 16 := getField s.req.arg 0 16

/-- `pti = REQ_ARG[18:16]` (R113). -/
def State.argPti (s : State) : BitVec 3 := getField s.req.arg 16 3

/-- The traffic-type hint: `REQ_ARG` when `HINTV` is 1, absent otherwise (R113). -/
def State.hint (s : State) (hintv : Bool) : Option Word := if hintv then some s.req.arg else none

/-- `hl = 4 + hecp`, the length of the cell header (R102). -/
def headerLen (hecp : Bool) : Nat := 4 + hecp.toNat

/-- A payload window: the captured bytes `DATA[off..off+len)` and the reported length (R13). -/
structure Window where
  off : Nat
  len : Nat
  rep : Nat
deriving DecidableEq, Repr

/-- The bytes of a window. -/
def State.windowBytes (s : State) (w : Window) : List Byte := s.dataSlice w.off w.len

/-- The window without its first `k` captured bytes; lengths do not go below 0 (`sat`, R9). -/
def Window.strip (w : Window) (k : Nat) : Window := { off := w.off + k, len := w.len - k, rep := w.rep - k }

/-- The whole captured buffer, as far as it was reported: `(0, min(n, r), r)` (R208, R240). -/
def State.wholeWindow (s : State) : Window := { off := 0, len := min s.capLen s.repLen, rep := s.repLen }

/-- The raw cell's payload: `(hl, sat(min(n, r) - hl), sat(r - hl))` (R280, R282). -/
def State.cellWindow (s : State) (hl : Nat) : Window :=
  { off := hl, len := min s.capLen s.repLen - hl, rep := s.repLen - hl }

/-- `RES_OUTOFF <- off; RES_OUTLEN <- len; RES_OUTREP <- rep` (R200, R241). -/
def Results.setWindow (r : Results) (w : Window) : Results :=
  { r with outoff := BitVec.ofNat 32 w.off, outlen := BitVec.ofNat 32 w.len, outrep := BitVec.ofNat 32 w.rep }

/-! ### The fields of the result registers -/

/-- `RES_STATUS.DONE` (R38) -/
def Results.done (r : Results) : Bool := r.status.getLsbD 0
/-- `RES_STATUS.BAD_CMD` (R38) -/
def Results.badCmd (r : Results) : Bool := r.status.getLsbD 1
/-- `RES_STATUS.LASTOP` (R38) -/
def Results.lastOp (r : Results) : BitVec 4 := getField r.status 4 4

/-- `RES_HDR0.VCI` (R40) -/
def Results.vci (r : Results) : BitVec 16 := getField r.hdr0 0 16
/-- `RES_HDR0.PTI` (R40) -/
def Results.pti (r : Results) : BitVec 3 := getField r.hdr0 16 3
/-- `RES_HDR0.CLP` (R40) -/
def Results.clp (r : Results) : BitVec 1 := getField r.hdr0 19 1
/-- `RES_HDR0.HDRV` (R40) -/
def Results.hdrv (r : Results) : Bool := r.hdr0.getLsbD 20
/-- `RES_HDR0.GFCV` (R40) -/
def Results.gfcv (r : Results) : Bool := r.hdr0.getLsbD 21
/-- `RES_HDR0.NNI` (R40) -/
def Results.nni (r : Results) : Bool := r.hdr0.getLsbD 22

/-- `RES_HDR1.VPI` (R41) -/
def Results.vpi (r : Results) : BitVec 12 := getField r.hdr1 0 12
/-- `RES_HDR1.GFC` (R41) -/
def Results.gfc (r : Results) : BitVec 4 := getField r.hdr1 12 4
/-- `RES_HDR1.HEC` (R41) -/
def Results.hecByte (r : Results) : Byte := getField r.hdr1 16 8
/-- `RES_HDR1.HECV` (R41) -/
def Results.hecv (r : Results) : Bool := r.hdr1.getLsbD 24

/-- `RES_HEC.HSTAT` (R42) -/
def Results.hstat (r : Results) : BitVec 2 := getField r.hec 0 2
/-- `RES_HEC.POS` (R42) -/
def Results.pos (r : Results) : BitVec 6 := getField r.hec 8 6
/-- `RES_HEC.SYND` (R42) -/
def Results.synd (r : Results) : Byte := getField r.hec 16 8

/-- `RES_CLASS.OAMV` (R43) -/
def Results.oamv (r : Results) : Bool := r.cls.getLsbD 0
/-- `RES_CLASS.OAM` (R43) -/
def Results.oam (r : Results) : Bool := r.cls.getLsbD 1
/-- `RES_CLASS.AALEV` (R43) -/
def Results.aalev (r : Results) : Bool := r.cls.getLsbD 2
/-- `RES_CLASS.AALE` (R43) -/
def Results.aale (r : Results) : BitVec 3 := getField r.cls 4 3

/-- `RES_TRL0.UU` (R44) -/
def Results.uu (r : Results) : Byte := getField r.trl0 0 8
/-- `RES_TRL0.CPI` (R44) -/
def Results.cpi (r : Results) : Byte := getField r.trl0 8 8
/-- `RES_TRL0.LENGTH` (R44) -/
def Results.length (r : Results) : BitVec 16 := getField r.trl0 16 16

/-- `RES_AAL5ST.TRLP` (R46) -/
def Results.trlp (r : Results) : Bool := r.aal5st.getLsbD 0
/-- `RES_AAL5ST.CRCOK` (R46) -/
def Results.crcok (r : Results) : Bool := r.aal5st.getLsbD 1
/-- `RES_AAL5ST.CELLSV` (R46) -/
def Results.cellsv (r : Results) : Bool := r.aal5st.getLsbD 2
/-- `RES_AAL5ST.PAD` (R46) -/
def Results.pad (r : Results) : Byte := getField r.aal5st 8 8

/-- `RES_ROUTE.ROUTE` (R48) -/
def Results.routeCode (r : Results) : BitVec 4 := getField r.route 0 4
/-- `RES_ROUTE.KEYV` (R48) -/
def Results.keyv (r : Results) : Bool := r.route.getLsbD 4
/-- `RES_ROUTE.IPVER` (R48) -/
def Results.ipver (r : Results) : BitVec 4 := getField r.route 8 4

/-! ### The register map -/

/-- The bits of a result register that the tables of R38 to R53 list; the others are reserved. -/
def definedBits (n : RegNum) : Word :=
  match n.toNat with
  | 0x10 => 0x000000F3
  | 0x11 => 0x0000000F
  | 0x12 => 0x007FFFFF
  | 0x13 => 0x01FFFFFF
  | 0x14 => 0x00FF3F03
  | 0x15 => 0x00000077
  | 0x16 => 0xFFFFFFFF
  | 0x17 => 0xFFFFFFFF
  | 0x18 => 0x0000FF07
  | 0x19 => 0xFFFFFFFF
  | 0x1A => 0x00000F1F
  | 0x1B => 0xFFFFFFFF
  | 0x1C => 0xFFFFFFFF
  | 0x1D => 0xFFFFFFFF
  | 0x1E => 0xFFFFFFFF
  | 0x1F => 0xFFFFFFFF
  | _ => 0

/-- The result register of number `n`, 0 for any other number (R79). -/
def Results.reg (r : Results) (n : RegNum) : Word :=
  match n.toNat with
  | 0x10 => r.status
  | 0x11 => r.diag
  | 0x12 => r.hdr0
  | 0x13 => r.hdr1
  | 0x14 => r.hec
  | 0x15 => r.cls
  | 0x16 => r.trl0
  | 0x17 => r.trl1
  | 0x18 => r.aal5st
  | 0x19 => r.cells
  | 0x1A => r.route
  | 0x1B => r.key
  | 0x1C => r.outoff
  | 0x1D => r.outlen
  | 0x1E => r.outrep
  | 0x1F => r.crcreg
  | _ => 0

/-- What a host read of register `n` returns: a request register as last written, a result register with its
reserved bits 0, and 0 for a reserved number (R34 to R37, R54). -/
def State.readReg (s : State) (n : RegNum) : Word :=
  match n.toNat with
  | 0x00 => s.req.cmd
  | 0x01 => s.req.arg
  | 0x02 => s.req.caplen
  | 0x03 => s.req.replen
  | _ => s.res.reg n &&& definedBits n

/-- What a host write to a register other than `REQ_CMD` leaves: `REQ_ARG`, `REQ_CAPLEN` and `REQ_REPLEN` hold the
value, a write to a reserved number or to a result register is ignored (R35 to R37, R54, R78). -/
def State.storeReg (s : State) (n : RegNum) (v : Word) : State :=
  match n.toNat with
  | 0x01 => s.setReq { s.req with arg := v }
  | 0x02 => s.setReq { s.req with caplen := v }
  | 0x03 => s.setReq { s.req with replen := v }
  | _ => s

end Sys2Proof.Machine
end

