-- ==== Sys2Proof/Machine/Flags.lean ====
section
/-! DEFINITION. The diagnostic bits of `RES_DIAG` (spec/10_state.md R39, spec/60_exceptions.md R310, R313). -/

namespace Sys2Proof.Machine

/-- The diagnostics that do not end a command: DG1, DG2, DG3 (R310). -/
inductive Diag where
  | hecCorrectable
  | hecUncorrectable
  | crcBad
deriving DecidableEq, Repr

/-- The bit of `RES_DIAG` (R39). -/
def Diag.bitIndex : Diag → Nat
  | .hecCorrectable => 1
  | .hecUncorrectable => 2
  | .crcBad => 3

/-- `raise Diag(X)`: sets the bit; the command goes on (R313). -/
def raiseDiag (d : Diag) (r : Results) : Results := { r with diag := putField r.diag d.bitIndex (bit true) }

/-- `RES_DIAG.TOO_SHORT` (R39) -/
def Results.tooShort (r : Results) : Bool := r.diag.getLsbD 0
/-- `RES_DIAG.HEC_CORRECTABLE` (R39) -/
def Results.hecCorrectable (r : Results) : Bool := r.diag.getLsbD 1
/-- `RES_DIAG.HEC_UNCORRECTABLE` (R39) -/
def Results.hecUncorrectable (r : Results) : Bool := r.diag.getLsbD 2
/-- `RES_DIAG.CRC_BAD` (R39) -/
def Results.crcBad (r : Results) : Bool := r.diag.getLsbD 3

end Sys2Proof.Machine
end

