-- ==== Sys2Proof/Machine/Aal5.lean ====
section
/-! DEFINITION. The AAL5 CPCS trailer validator and the cell count (spec/42_aal5.md): CRC32MPEG2, Aal5Trailer,
CellCount, AAL5_TRAILER and CELL_COUNT. -/

namespace Sys2Proof.Machine

/-- One step of R203's inner loop. -/
def crcStep (c : Word) : Word := if c.getLsbD 31 then (c <<< 1) ^^^ Config.crcPoly else c <<< 1

/-- The CRC register after one byte (R203). -/
def crcByte (c : Word) (b : Byte) : Word := crcStep^[8] (c ^^^ (b.setWidth 32 <<< 24))

/-- The CRC register, started from `c`, after the bytes. -/
def crcFrom (c : Word) (bytes : List Byte) : Word := bytes.foldl crcByte c

/-- `CRC32MPEG2(bytes)` (R203). -/
def crc32mpeg2 (bytes : List Byte) : Word := crcFrom Config.crcInit bytes

/-- Guard g1 (R201): the AAL kinds that carry a trailer. -/
def carriesTrailer (aal : AalKind) : Bool := aal = .aal5 || aal = .signallingAal

/-- `L5`, the trailer's length field (R201). It is used only where `n >= 8`. -/
def State.trailerLength (s : State) : Nat := (s.be16 (s.capLen - 6)).toNat

/-- `pad` (R201). It is used only where `L5 + 8 <= n`. -/
def State.trailerPad (s : State) : Nat := s.capLen - s.trailerLength - Config.trailerBytes

/-- The guards g1 to g5 (R201): the trailer is present. -/
def trailerPresent (s : State) (aal : AalKind) : Bool :=
  carriesTrailer aal && decide (s.repLen ≤ s.capLen) && decide (Config.trailerBytes ≤ s.capLen) &&
    decide (s.trailerLength ≠ 0) && decide (s.trailerLength ≤ s.capLen - Config.trailerBytes) &&
    decide (s.trailerPad ≤ Config.maxPad)

/-- The trailer fields (R202). -/
def writeTrailer (s : State) (r : Results) : Results :=
  { r with
    trl0 := putField (putField (putField r.trl0 0 (s.dataByte (s.capLen - 8))) 8 (s.dataByte (s.capLen - 7))) 16
      (s.be16 (s.capLen - 6))
    trl1 := s.be32 (s.capLen - 4)
    aal5st := putField (putField r.aal5st 0 (bit true)) 8 (BitVec.ofNat 8 s.trailerPad) }

/-- The CRC-32 over the whole PDU (R204). -/
def State.pduCrc (s : State) : Word := crc32mpeg2 (s.dataSlice 0 s.capLen)

/-- The CRC check (R204). -/
def writeCrc (c : Word) (r : Results) : Results :=
  let r' := { r with crcreg := c, aal5st := putField r.aal5st 1 (bit (c == Config.crcResidue)) }
  if c = Config.crcResidue then r' else raiseDiag .crcBad r'

/-- `Aal5Trailer(aal)`: the results it writes (R201 to R204, R208). -/
def aal5Results (s : State) (aal : AalKind) (r : Results) : Results :=
  if trailerPresent s aal then writeCrc s.pduCrc (writeTrailer s r) else r

/-- `Aal5Trailer(aal)`: the window it returns, the content when the trailer is present (R205), the captured bytes of
the whole PDU otherwise (R208). -/
def aal5Window (s : State) (aal : AalKind) : Window :=
  if trailerPresent s aal then { off := 0, len := s.trailerLength, rep := s.trailerLength } else s.wholeWindow

/-- `CellCount` (R206). -/
def cellCount (s : State) (r : Results) : Results :=
  if s.repLen % Config.cellPayloadBytes = 0 then
    { r with cells := BitVec.ofNat 32 (s.repLen / Config.cellPayloadBytes), aal5st := putField r.aal5st 2 (bit true) }
  else r

/-- The body of AAL5_TRAILER (R200). -/
def aal5TrailerBody (aal : AalKind) (s : State) (r : Results) : Flow :=
  .running ((aal5Results s aal r).setWindow (aal5Window s aal))

/-- AAL5_TRAILER (R200). -/
def execAal5Trailer (aal : AalKind) (s : State) : Host.Outcome State Fault Refusal :=
  .next (runCommand s (aal5TrailerBody aal))

/-- The body of CELL_COUNT (R206). -/
def cellCountBody (s : State) (r : Results) : Flow := .running (cellCount s r)

/-- CELL_COUNT (R206). -/
def execCellCount (s : State) : Host.Outcome State Fault Refusal := .next (runCommand s cellCountBody)

end Sys2Proof.Machine
end

