-- ==== Sys2Proof/Machine/Hec.lean ====
section
/-! DEFINITION. The HEC corrector (spec/40_hec.md): the tables `SYND` and `EPOS`, the function HecCheck, and the
command HEC_CHECK. -/

namespace Sys2Proof.Machine

/-- One step of R147's pseudocode: a shift, reduced by the generator. -/
def syndStep (r : Byte) : Byte := if r.getLsbD 7 then (r <<< 1) ^^^ Config.hecPoly else r <<< 1

/-- `SYND[i]` (R55): the pseudocode of R147, which is the definition of the table (C8). -/
def synd (i : Byte) : Byte := syndStep^[8] i

/-- The fold of R141 over the first four header bytes. -/
def hecFold (h0 h1 h2 h3 : Byte) : Byte := synd (synd (synd (synd h0 ^^^ h1) ^^^ h2) ^^^ h3)

/-- The syndrome of a header (R141). -/
def syndrome (h0 h1 h2 h3 h4 : Byte) : Byte := hecFold h0 h1 h2 h3 ^^^ h4 ^^^ Config.cosetLeader

/-- The pairs `syndrome:position` of R148. -/
def eposPairs : List (Byte × Nat) :=
  [(0x01, 39), (0x02, 38), (0x04, 37), (0x07, 31), (0x08, 36), (0x0B, 8), (0x0E, 30), (0x10, 35), (0x15, 23),
    (0x16, 7)] ++
  [(0x1C, 29), (0x20, 34), (0x2A, 22), (0x2C, 6), (0x31, 0), (0x38, 28), (0x40, 33), (0x43, 10), (0x51, 12),
    (0x54, 21)] ++
  [(0x57, 19), (0x58, 5), (0x5B, 17), (0x67, 3), (0x6B, 15), (0x70, 27), (0x80, 32), (0x86, 9), (0x89, 24),
    (0x9B, 1)] ++
  [(0xA2, 11), (0xA8, 20), (0xAB, 13), (0xAE, 18), (0xB0, 4), (0xB6, 16), (0xC7, 25), (0xCE, 2), (0xD6, 14),
    (0xE0, 26)]

/-- `EPOS[s]` (R56, R148): 0 is "no error", the 40 syndromes of single bits give their positions, every other entry
is "uncorrectable". -/
def epos (s : Byte) : Int :=
  if s = 0 then Config.eposNoError
  else match eposPairs.lookup s with
    | some p => p
    | none => Config.eposUncorrectable

/-- `HecResult` (R12). -/
inductive HecResult where
  | noErrorDetected
  | correctablePosition (p : Fin 40)
  | uncorrectable
deriving DecidableEq, Repr

/-- The classification of an entry of `EPOS`, in the order of R143. -/
def classify (e : Int) : HecResult :=
  if e < 0 then .noErrorDetected
  else if h : e.toNat < 40 then .correctablePosition ⟨e.toNat, h⟩
  else .uncorrectable

/-- HecCheck over five header bytes: the result and the syndrome (R141 to R143). -/
def hecCheck (h0 h1 h2 h3 h4 : Byte) : HecResult × Byte :=
  let s := syndrome h0 h1 h2 h3 h4
  (classify (epos s), s)

/-- The codes of `RES_HEC.HSTAT` (R115). -/
def HecResult.code : HecResult → BitVec 2
  | .noErrorDetected => 1
  | .correctablePosition _ => 2
  | .uncorrectable => 3

/-- `RES_HEC.POS`: the position, 0 when there is none (R42). -/
def HecResult.posField : HecResult → BitVec 6
  | .noErrorDetected => 0
  | .correctablePosition p => BitVec.ofNat 6 p.val
  | .uncorrectable => 0

/-- The diagnostic of a result (R140, R174). -/
def HecResult.report : HecResult → Results → Results
  | .noErrorDetected, r => r
  | .correctablePosition _, r => raiseDiag .hecCorrectable r
  | .uncorrectable, r => raiseDiag .hecUncorrectable r

/-- HecCheck over `DATA[0..5)` (R140, R174). -/
def State.hecOfData (s : State) : HecResult × Byte :=
  hecCheck (s.dataByte 0) (s.dataByte 1) (s.dataByte 2) (s.dataByte 3) (s.dataByte 4)

/-- The results of a HEC check written (R140, R174): `RES_HEC` and at most one diagnostic. -/
def writeHec (c : HecResult × Byte) (r : Results) : Results :=
  c.1.report { r with hec := putField (putField (putField r.hec 16 c.2) 0 c.1.code) 8 c.1.posField }

/-- The body of HEC_CHECK (R140). -/
def hecCheckBody (s : State) (r : Results) : Flow :=
  if s.capLen < 5 then raiseTooShort r else .running (writeHec s.hecOfData r)

/-- HEC_CHECK (R140). -/
def execHecCheck (s : State) : Host.Outcome State Fault Refusal := .next (runCommand s hecCheckBody)

end Sys2Proof.Machine
end

