-- ==== Sys2Proof/Machine/Header.lean ====
section
/-! DEFINITION. The cell header parser and the OAM classifier (spec/41_header.md): ParseHeader, IsOam, HDR_PARSE and
OAM_CLASSIFY. -/

namespace Sys2Proof.Machine

/-- A field of a byte. -/
def byteField (b : Byte) (lo w : Nat) : BitVec w := b.extractLsb' lo w

/-- GFC (R171): `b0[7:4]` at the UNI, 0 at the NNI. -/
def headerGfc (ref : RefPoint) (b0 : Byte) : BitVec 4 :=
  match ref with
  | .uni => byteField b0 4 4
  | .nni => 0

/-- VPI (R171): 8 bits at the UNI, 12 bits at the NNI. -/
def headerVpi (ref : RefPoint) (b0 b1 : Byte) : BitVec 12 :=
  match ref with
  | .uni => (byteField b0 0 4 ++ byteField b1 4 4).setWidth 12
  | .nni => b0 ++ byteField b1 4 4

/-- VCI (R171): byte 1 low nibble, byte 2, byte 3 high nibble. -/
def headerVci (b1 b2 b3 : Byte) : BitVec 16 := byteField b1 0 4 ++ b2 ++ byteField b3 4 4

/-- PTI (R171). -/
def headerPti (b3 : Byte) : BitVec 3 := byteField b3 1 3

/-- CLP (R171). -/
def headerClp (b3 : Byte) : BitVec 1 := byteField b3 0 1

/-- `RES_HDR0` as R171 writes it. -/
def hdr0Word (ref : RefPoint) (b1 b2 b3 : Byte) : Word :=
  putField (putField (putField (putField (putField (putField 0 0 (headerVci b1 b2 b3)) 16 (headerPti b3)) 19
    (headerClp b3)) 20 (bit true)) 21 (bit (ref = .uni))) 22 (bit (ref = .nni))

/-- `RES_HDR1` as R171 writes it, before the HEC byte. -/
def hdr1Word (ref : RefPoint) (b0 b1 : Byte) : Word :=
  putField (putField 0 0 (headerVpi ref b0 b1)) 12 (headerGfc ref b0)

/-- The header fields of R171, from `DATA[0..4)` as read (R175). -/
def writeHeader (s : State) (ref : RefPoint) (r : Results) : Results :=
  { r with
    hdr0 := hdr0Word ref (s.dataByte 1) (s.dataByte 2) (s.dataByte 3)
    hdr1 := hdr1Word ref (s.dataByte 0) (s.dataByte 1) }

/-- `RES_HDR1.HEC <- b4; RES_HDR1.HECV <- 1` (R174). -/
def writeHecByte (s : State) (r : Results) : Results :=
  { r with hdr1 := putField (putField r.hdr1 16 (s.dataByte 4)) 24 (bit true) }

/-- `ParseHeader(ref, hecp)` (R171 to R176): the length check comes first, a HEC error neither stops the parse nor
changes a field. -/
def parseHeader (s : State) (ref : RefPoint) (hecp : Bool) (r : Results) : Flow :=
  if s.capLen < headerLen hecp then raiseTooShort r
  else if hecp then .running (writeHec s.hecOfData (writeHecByte s (writeHeader s ref r)))
  else .running (writeHeader s ref r)

/-- `IsOam(vci, pti)` (R181). -/
def isOam (vci : BitVec 16) (pti : BitVec 3) : Bool :=
  ((vci == 3 || vci == 4) && (pti &&& 0b101) == 0) || (pti &&& 0b110) == 0b100

/-- `RES_CLASS.OAM <- oam; RES_CLASS.OAMV <- 1` (R180, R280). -/
def writeOam (oam : Bool) (r : Results) : Results :=
  { r with cls := putField (putField r.cls 1 (bit oam)) 0 (bit true) }

/-- HDR_PARSE (R170). -/
def execHdrParse (ref : RefPoint) (hecp : Bool) (s : State) : Host.Outcome State Fault Refusal :=
  .next (runCommand s fun s r => parseHeader s ref hecp r)

/-- The body of OAM_CLASSIFY (R180). -/
def oamClassifyBody (s : State) (r : Results) : Flow := .running (writeOam (isOam s.argVci s.argPti) r)

/-- OAM_CLASSIFY (R180). -/
def execOamClassify (s : State) : Host.Outcome State Fault Refusal := .next (runCommand s oamClassifyBody)

end Sys2Proof.Machine
end

