-- ==== Sys2Proof/Machine/Payload.lean ====
section
/-! DEFINITION. The AAL payload dispatcher (spec/43_dispatch.md): the route codes (R118), the sniffs (R244 to R250),
`Dispatch(aal, off, len, rep)` and the command DISPATCH. -/

namespace Sys2Proof.Machine

/-- The routes (R118). -/
inductive Route where
  | none | sscop | table5 | llcSnap | ppp | ethBridged | frNlpid2 | frNlpid4 | ip | table2 | raw
deriving DecidableEq, Repr

/-- Route codes (R118). -/
def Route.code : Route → BitVec 4
  | .none => 0
  | .sscop => 1
  | .table5 => 2
  | .llcSnap => 3
  | .ppp => 4
  | .ethBridged => 5
  | .frNlpid2 => 6
  | .frNlpid4 => 7
  | .ip => 8
  | .table2 => 9
  | .raw => 10

/-- `RES_CLASS.AALE <- code(aal); RES_CLASS.AALEV <- 1` (R241). -/
def writeAale (aal : AalKind) (r : Results) : Results :=
  { r with cls := putField (putField r.cls 4 aal.code) 2 (bit true) }

/-- `Emit(code, off, len, rep)` (R241). -/
def emit (route : Route) (w : Window) (r : Results) : Flow :=
  .running ({ r with route := putField r.route 0 route.code }.setWindow w)

/-- A table route: `RES_ROUTE.KEYV <- 1; RES_KEY <- REQ_ARG`, then `Emit` (R243, R253). -/
def emitTable (route : Route) (key : Word) (w : Window) (r : Results) : Flow :=
  emit route w { r with route := putField r.route 4 (bit true), key := key }

/-- The condition that R247 puts on the bytes after the control byte, and R248 two bytes further on. -/
def frNlpid (x y : Byte) : Bool := x == 0xCC || x == 0x8E || (x == 0x00 && y == 0x80)

/-- What the sniff decides (R244 to R250), in the order of R251. The first seven bytes of the payload are `b0` to
`b6`. -/
def sniffRoute (b0 b1 b2 b3 b4 b5 b6 : Byte) : Route :=
  if b0 == 0xAA && b1 == 0xAA && b2 == 0x03 then .llcSnap
  else if (b0 ++ b1) &&& 0x00FF#16 == Config.pppIpProto then .ppp
  else if b0 ++ b1 == 0x0000#16 then .ethBridged
  else if b2 == 0x03 && frNlpid b3 b4 then .frNlpid2
  else if b4 == 0x03 && frNlpid b5 b6 then .frNlpid4
  else if b0.extractLsb' 4 4 == 0x4#4 || b0.extractLsb' 4 4 == 0x6#4 then .ip
  else .raw

/-- The route the sniff decides for a window. -/
def State.sniffAt (s : State) (off : Nat) : Route :=
  sniffRoute (s.dataByte off) (s.dataByte (off + 1)) (s.dataByte (off + 2)) (s.dataByte (off + 3))
    (s.dataByte (off + 4)) (s.dataByte (off + 5)) (s.dataByte (off + 6))

/-- `Sniff(off, len, rep)` (R244 to R250): bridged Ethernet strips its pad (R246), IP records its version (R249). -/
def sniff (s : State) (w : Window) (r : Results) : Flow :=
  match s.sniffAt w.off with
  | .ethBridged => emit .ethBridged (w.strip Config.ethPadBytes) r
  | .ip => emit .ip w { r with route := putField r.route 8 ((s.dataByte w.off).extractLsb' 4 4) }
  | route => emit route w r

/-- Whether a table takes the payload: only a known hint is tried (R243, R253). -/
def tableAccepts (table : Word → List Byte → Bool) (s : State) (hintv : Bool) (w : Window) : Bool :=
  match s.hint hintv with
  | some key => table key (s.windowBytes w)
  | none => false

/-- Steps 2 and 3, AAL5 (R243). -/
def dispatchAal5 (s : State) (hintv : Bool) (w : Window) (r : Results) : Flow :=
  if tableAccepts Config.table5Accepts s hintv w then emitTable .table5 s.req.arg w r
  else if Config.sniffMinLen ≤ w.len then sniff s w r
  else emit .raw w r

/-- Step 4, AAL2, the table (R253), over the window after the strip. -/
def dispatchAal2Table (s : State) (hintv : Bool) (w : Window) (r : Results) : Flow :=
  if tableAccepts Config.table2Accepts s hintv w then emitTable .table2 s.req.arg w r else emit .raw w r

/-- Step 4, AAL2: the sub-header is stripped unless there is none (R252). -/
def dispatchAal2 (s : State) (noph hintv : Bool) (w : Window) (r : Results) : Flow :=
  if noph then dispatchAal2Table s hintv w r
  else if w.len < Config.aal2SubhdrBytes then raiseTooShort r
  else dispatchAal2Table s hintv (w.strip Config.aal2SubhdrBytes) r

/-- `Dispatch(aal, off, len, rep)` (R241 to R254). -/
def dispatchPayload (s : State) (noph hintv : Bool) (aal : AalKind) (w : Window) (r : Results) : Flow :=
  let r' := writeAale aal r
  match aal with
  | .signallingAal => emit .sscop w r'
  | .aal5 => dispatchAal5 s hintv w r'
  | .aal2 => dispatchAal2 s noph hintv w r'
  | .unknown => emit .raw w r'
  | .aal1 => emit .raw w r'
  | .aal34 => emit .raw w r'
  | .userAal => emit .raw w r'
  | .oamCell => emit .raw w r'

/-- The body of DISPATCH (R240): the window is the whole captured buffer. -/
def dispatchBody (noph hintv : Bool) (aal : AalKind) (s : State) (r : Results) : Flow :=
  dispatchPayload s noph hintv aal s.wholeWindow r

/-- DISPATCH (R240). -/
def execDispatch (noph hintv : Bool) (aal : AalKind) (s : State) : Host.Outcome State Fault Refusal :=
  .next (runCommand s (dispatchBody noph hintv aal))

end Sys2Proof.Machine
end

