-- ==== Sys2Proof/Machine/Pipeline.lean ====
section
/-! DEFINITION. The data-flow commands (spec/44_pipeline.md): EffAal, PROCESS_CELL and PROCESS_PDU. -/

namespace Sys2Proof.Machine

/-- `EffAal(aal, oam)` (R281). -/
def effAal (aal : AalKind) (oam : Bool) : AalKind :=
  if oam && (aal = .unknown || aal = .userAal) then .oamCell else aal

/-- PROCESS_CELL after the parse (R280): classify on the fields as read, then dispatch the bytes after the header. -/
def classifyAndDispatch (hecp noph hintv : Bool) (aal : AalKind) (s : State) (r : Results) : Flow :=
  let oam := isOam r.vci r.pti
  dispatchPayload s noph hintv (effAal aal oam) (s.cellWindow (headerLen hecp)) (writeOam oam r)

/-- The body of PROCESS_CELL (R280). -/
def processCellBody (ref : RefPoint) (hecp noph hintv : Bool) (aal : AalKind) (s : State) (r : Results) : Flow :=
  (parseHeader s ref hecp r).andThen (classifyAndDispatch hecp noph hintv aal s)

/-- PROCESS_CELL (R280). -/
def execProcessCell (ref : RefPoint) (hecp noph hintv : Bool) (aal : AalKind) (s : State) :
    Host.Outcome State Fault Refusal :=
  .next (runCommand s (processCellBody ref hecp noph hintv aal))

/-- The body of PROCESS_PDU (R290). -/
def processPduBody (noph hintv : Bool) (aal : AalKind) (s : State) (r : Results) : Flow :=
  dispatchPayload s noph hintv aal (aal5Window s aal) (aal5Results s aal (cellCount s r))

/-- PROCESS_PDU (R290). -/
def execProcessPdu (noph hintv : Bool) (aal : AalKind) (s : State) : Host.Outcome State Fault Refusal :=
  .next (runCommand s (processPduBody noph hintv aal))

end Sys2Proof.Machine
end

