-- ==== Sys2Proof/Machine/Dispatch.lean ====
section
/-! DEFINITION. One arm per command (spec/30_encoding.md R109). -/

namespace Sys2Proof.Machine

-- `exec i s` runs command i in a state whose REQ_CMD already holds the word the host wrote (R34, R59; log 11).
def exec (i : Instr) (s : State) : Host.Outcome State Fault Refusal :=
  match i with
  | .hecCheck => Sys2Proof.Machine.execHecCheck s
  | .hdrParse ref hecp => Sys2Proof.Machine.execHdrParse ref hecp s
  | .oamClassify => Sys2Proof.Machine.execOamClassify s
  | .aal5Trailer aal => Sys2Proof.Machine.execAal5Trailer aal s
  | .cellCount => Sys2Proof.Machine.execCellCount s
  | .dispatch noph hintv aal => Sys2Proof.Machine.execDispatch noph hintv aal s
  | .processCell ref hecp noph hintv aal => Sys2Proof.Machine.execProcessCell ref hecp noph hintv aal s
  | .processPdu noph hintv aal => Sys2Proof.Machine.execProcessPdu noph hintv aal s

end Sys2Proof.Machine
end

