-- ==== Sys2Proof/Machine/HostPort.lean ====
section
/-! DEFINITION. The host's side: what each event from outside does (spec/20_memory.md R77, R78, R81), and the
pseudo-instructions of a host program (spec/30_encoding.md R121). Step.lean only calls this file. -/

namespace Sys2Proof.Machine

/-- The number of `REQ_CMD` (R34). -/
abbrev regCmd : RegNum := 0x00
/-- The number of `REQ_ARG` (R35). -/
abbrev regArg : RegNum := 0x01
/-- The number of `REQ_CAPLEN` (R36). -/
abbrev regCaplen : RegNum := 0x02
/-- The number of `REQ_REPLEN` (R37). -/
abbrev regReplen : RegNum := 0x03

/-- A host write of `w` to `REQ_CMD` (R34, R59, R119): the word is stored, then the command it decodes to runs; a
word that decodes to none is a bad command (R311). -/
def startCommand (s : State) (w : Word) : Host.Outcome State Fault Refusal :=
  match decodeWord w with
  | .instr i => exec i (s.setCmd w)
  | .bad _ => .next (badCommand (s.setCmd w))

/-- What an event does (R77, R78, R340). A host write to `DATA` outside the window faults, since no such byte exists
(R57, R77; log 9). A host read of `DATA` never stops: below `MAX_BUF` it returns the byte last written there, also
between `RES_OUTOFF + RES_OUTLEN` and the end that `RES_OUTREP` reports, where spec/93 U4 says 'any value' (DESIGN CHOICE:
R77 and R348 are followed there, log 21); a byte that does not exist has a free value (spec/93 U4; log 9). -/
def applyEvent (s : State) : Event → Host.Outcome State Fault Refusal
  | .writeReg n v => if n = regCmd then startCommand s v else .next (s.storeReg n v)
  | .readReg n => .next (s.giveHost (s.readReg n))
  | .writeData i b => if i < Config.maxBuf then .next (s.writeByte i b) else .fault .noSuchDataByte
  | .readData i => .next (s.giveHost ((s.hostByte i).setWidth 32))
  | .reset => .next s.afterReset

/-- One event of those to come, in the host's order (R81); while nothing reaches the block, it stays as it is
(log 2). -/
def nextEvent (s : State) : Host.Outcome State Fault Refusal :=
  match s.pending with
  | [] => .next s
  | e :: es => applyEvent (s.setPending es) e

/-- The write that starts the command of word `w`. -/
def commandWrite (w : Word) : Event := .writeReg regCmd w

/-- `DATA[i] <- b_i` for each byte, from index `i` on (R121). -/
def loadBytes (i : Nat) : List Byte → List Event
  | [] => []
  | b :: bs => .writeData i b :: loadBytes (i + 1) bs

/-- The expansions of R121. -/
def expand : HostOp → List Event
  | .load bytes =>
    loadBytes 0 bytes ++
      [.writeReg regCaplen (BitVec.ofNat 32 bytes.length), .writeReg regReplen (BitVec.ofNat 32 bytes.length)]
  | .replen n => [.writeReg regReplen n]
  | .arg v => [.writeReg regArg v]
  | .oamClassify vci pti => [.writeReg regArg ((pti.setWidth 32 <<< 16) ||| vci.setWidth 32), commandWrite 0x00000003]
  | .command c => [commandWrite c.toWord]
  | .hinted c v => [.writeReg regArg v, commandWrite { c with hintv := true }.toWord]
  | .word w => [commandWrite w]
  | .read n => [.readReg n]

/-- A host program is run in order (R121, R81). -/
def State.withProgram (s : State) (ops : List HostOp) : State := s.setPending (ops.flatMap expand)

end Sys2Proof.Machine
end

