-- ==== Sys2Proof/Machine/Step.lean ====
section
/-! DEFINITION. One step: the next event of those to come (spec/20_memory.md R81); a command is one step (R59, R349).
The block has no program counter (R32): a command is "fetched" when the host writes `REQ_CMD`. -/

namespace Sys2Proof.Machine

/-- One step of the machine. -/
def step (s : State) : Host.Outcome State Fault Refusal := nextEvent s

/-- The state whose very next event is the host's write of the word to `REQ_CMD`, so that the next step runs exactly
that command (log 1). -/
def State.withFetchWord (s : State) (nbits w : Nat) : State :=
  s.setPending (commandWrite (tableWord nbits w) :: s.pending)

end Sys2Proof.Machine
end

