-- ==== Sys2Proof/Safety.lean ====
section
/-! DEFINITION. The terms the claims use: how a command leaves the machine, what results the block can show, the
invariant of the machine, what a safe run is, and plain descriptions of the spec's tables to hold the model against. -/

namespace Sys2Proof.Machine

/-! ### How a command ends -/

/-- The capture fits the window: the command is not bad for its length (R36, R311). -/
def State.Fits (s : State) : Prop := s.capLen ≤ Config.maxBuf

/-- `RES_STATUS` after a command that was not bad: `DONE`, and `LASTOP` a copy of `REQ_CMD.OP` (R38, R59). -/
def State.endStatus (s : State) : Word := 0x1#32 ||| ((s.req.cmd &&& 0xF#32) <<< 4)

/-- The state a command leaves that ends normally with results `r`: nothing but the result registers changes. -/
def State.endsWith (s : State) (r : Results) : State := { s with res := { r with status := s.endStatus } }

/-- The state a command leaves that `TooShort` ended after results `r` were written (R312). -/
def State.endsShort (s : State) (r : Results) : State :=
  { s with
    res := { r with status := s.endStatus, diag := r.diag ||| 0x1#32 }
    tooShortCount := s.tooShortCount + 1 }

/-- The state a bad command leaves (R311). -/
def State.endsBad (s : State) : State :=
  { s with
    res := { Results.zero with status := s.endStatus ||| 0x2#32 }
    badCount := s.badCount + 1 }

/-- Everything but the result registers and the run's records is as before: the request registers, every byte of
`DATA`, the host's side (R72, R347). -/
structure State.SameOutsideResults (s t : State) : Prop where
  req : t.req = s.req
  bytes : ∀ a, t.dataByte a = s.dataByte a
  data : t.data = s.data
  resetDraw : t.resetDraw = s.resetDraw
  pending : t.pending = s.pending
  returned : t.returned = s.returned

/-! ### What the block can show -/

/-- The reserved bits of every result register are 0 (R54). -/
def Results.ReservedClear (r : Results) : Prop := ∀ n : RegNum, r.reg n &&& ~~~ definedBits n = 0

/-- What the result registers can hold, whatever command ran last. -/
structure Results.Legal (r : Results) : Prop where
  /-- reserved bits are 0 (R54) -/
  reserved : r.ReservedClear
  /-- route codes 11 to 15 are never produced (R118, U10) -/
  route_le : r.routeCode.toNat ≤ 10
  /-- `KEYV` is 1 exactly for `TABLE5` and `TABLE2` (R256) -/
  keyv_iff : r.keyv = true ↔ r.routeCode = 2 ∨ r.routeCode = 9
  /-- a key is shown only for a table route (R49) -/
  key_zero : r.keyv = false → r.key = 0
  /-- `IPVER` is 4 or 6 for `IP` (R48, R249) -/
  ipver_ip : r.routeCode = 8 → r.ipver = 4 ∨ r.ipver = 6
  /-- `IPVER` is 0 for every other route (R256) -/
  ipver_else : r.routeCode ≠ 8 → r.ipver = 0
  /-- a position is below 40 (R12, R42) -/
  pos_lt : r.pos.toNat < 40
  /-- `POS` is 0 unless the result is `CorrectablePosition` (R42) -/
  pos_zero : r.hstat ≠ 2 → r.pos = 0
  /-- the syndrome is shown only when a check ran (R42) -/
  synd_zero : r.hstat = 0 → r.synd = 0
  /-- DG1 is set exactly with `CorrectablePosition` (R39, R310) -/
  correctable_iff : r.hecCorrectable = true ↔ r.hstat = 2
  /-- DG2 is set exactly with `Uncorrectable` (R39, R310) -/
  uncorrectable_iff : r.hecUncorrectable = true ↔ r.hstat = 3
  /-- the padding is at most 47 (R46, R201) -/
  pad_le : r.pad.toNat ≤ 47
  /-- without a trailer no trailer field is written (R44, R45, R53, R208) -/
  no_trailer : r.trlp = false → r.trl0 = 0 ∧ r.trl1 = 0 ∧ r.crcreg = 0 ∧ r.pad = 0 ∧ r.crcok = false
  /-- `CRCOK` is 1 exactly when the CRC register is the residue (R53, R204) -/
  crcok_iff : r.trlp = true → (r.crcok = true ↔ r.crcreg = 0xC704DD7B#32)
  /-- DG3 is set exactly when the trailer is present and its check fails (R39, R310) -/
  crcBad_iff : r.crcBad = true ↔ r.trlp = true ∧ r.crcok = false
  /-- a cell count is shown only when it is valid (R47) -/
  cells_zero : r.cellsv = false → r.cells = 0
  /-- a parsed header is a UNI or an NNI header (R40, R171) -/
  header_kind : (r.gfcv ^^ r.nni) = r.hdrv ∧ (r.gfcv && r.nni) = false
  /-- `GFC` reads 0 when it has no meaning (R41) -/
  gfc_zero : r.gfcv = false → r.gfc = 0
  /-- at the UNI the upper four bits of `VPI` read 0 (R41) -/
  vpi_uni : r.nni = false → r.vpi.toNat < 256
  /-- no route is decided by a command that `TooShort` ended (R312) -/
  short_no_route : r.tooShort = true → r.routeCode = 0
  /-- a bad command leaves nothing but its status (R311) -/
  bad_only_status : r.badCmd = true → r = { Results.zero with status := r.status }

/-- The invariant of the machine: `DATA` keeps its canonical form inside its window, and the result registers show
only what the spec lets them. -/
structure State.Inv (s : State) : Prop where
  canonical : s.data.wf = true
  inWindow : s.data.inWindow = true
  legal : s.res.Legal

/-- A safe run so far: no command was short of bytes and none was bad (spec/93 U1, U6 to U8). -/
def State.SafeRun (s : State) : Prop := s.tooShortCount = 0 ∧ s.badCount = 0

/-! ### The spec's tables, said plainly -/

/-- The codes of `AalKind` (R114). -/
def aalCodes : List (AalKind × BitVec 3) :=
  [(.unknown, 0), (.aal1, 1), (.aal2, 2), (.aal34, 3), (.aal5, 4), (.userAal, 5), (.signallingAal, 6), (.oamCell, 7)]

/-- The request registers by number (R34 to R37). -/
def Request.byNumber (q : Request) : List (RegNum × Word) :=
  [(0x00, q.cmd), (0x01, q.arg), (0x02, q.caplen), (0x03, q.replen)]

/-- The result registers by number (R38 to R53). -/
def Results.byNumber (r : Results) : List (RegNum × Word) :=
  [(0x10, r.status), (0x11, r.diag), (0x12, r.hdr0), (0x13, r.hdr1), (0x14, r.hec), (0x15, r.cls), (0x16, r.trl0),
    (0x17, r.trl1)] ++
  [(0x18, r.aal5st), (0x19, r.cells), (0x1A, r.route), (0x1B, r.key), (0x1C, r.outoff), (0x1D, r.outlen),
    (0x1E, r.outrep), (0x1F, r.crcreg)]

/-- The reserved bits of the result registers that have any: the bits that the tables of R38 to R43, R46 and R48 do not
list. -/
def reservedBits : List (RegNum × Word) :=
  [(0x10, 0xFFFFFF0C), (0x11, 0xFFFFFFF0), (0x12, 0xFF800000), (0x13, 0xFE000000), (0x14, 0xFF00C0FC),
    (0x15, 0xFFFFFF88), (0x18, 0xFFFF00F8), (0x1A, 0xFFFFF0E0)]

/-- The header as a 40-bit number `H` (spec/30_encoding.md section 1). -/
def State.headerNumber (s : State) : BitVec 40 :=
  s.dataByte 0 ++ s.dataByte 1 ++ s.dataByte 2 ++ s.dataByte 3 ++ s.dataByte 4

/-- HecCheck over a header given as the number `H`: byte 0 is `H[39:32]`. -/
def hecCheckNumber (h : BitVec 40) : HecResult × Byte :=
  hecCheck (h.extractLsb' 32 8) (h.extractLsb' 24 8) (h.extractLsb' 16 8) (h.extractLsb' 8 8) (h.extractLsb' 0 8)

/-- `H` with the bit of position `p` inverted: bit `39 - p` of `H` (R144). -/
def flipPosition (h : BitVec 40) (p : Fin 40) : BitVec 40 := h ^^^ ((1 : BitVec 40) <<< (39 - p.val))

/-- `S(p) = x^(39-p) mod g(x)` (R148). -/
def positionSyndrome (p : Fin 40) : Byte := syndStep^[39 - p.val] 1

/-- `RES_HEC` for a result and its syndrome (R42, R140). -/
def hecWord : HecResult → Byte → Word
  | .noErrorDetected, y => 1#32 ||| (y.setWidth 32 <<< 16)
  | .correctablePosition p, y => 2#32 ||| (BitVec.ofNat 32 p.val <<< 8) ||| (y.setWidth 32 <<< 16)
  | .uncorrectable, y => 3#32 ||| (y.setWidth 32 <<< 16)

/-- `RES_DIAG` for a result of HecCheck (R39, R140). -/
def hecDiag : HecResult → Word
  | .noErrorDetected => 0
  | .correctablePosition _ => 2
  | .uncorrectable => 4

/-- `RES_HDR0` of a header (R40, R100, R101, R171). -/
def hdr0Of (ref : RefPoint) (h : BitVec 40) : Word :=
  (h.extractLsb' 12 16).setWidth 32 ||| ((h.extractLsb' 9 3).setWidth 32 <<< 16) |||
    ((h.extractLsb' 8 1).setWidth 32 <<< 19) ||| 0x00100000#32 |||
    (match ref with
      | .uni => 0x00200000#32
      | .nni => 0x00400000#32)

/-- `RES_HDR1` of a header, without its HEC byte (R41, R100, R101, R171). -/
def hdr1Of (ref : RefPoint) (h : BitVec 40) : Word :=
  match ref with
  | .uni => (h.extractLsb' 28 8).setWidth 32 ||| ((h.extractLsb' 36 4).setWidth 32 <<< 12)
  | .nni => (h.extractLsb' 28 12).setWidth 32

/-- The HEC byte's part of `RES_HDR1` (R41, R174). -/
def hdr1HecOf (h : BitVec 40) : Word := ((h.extractLsb' 0 8).setWidth 32 <<< 16) ||| 0x01000000#32

/-- The results of a header parse of `H` that is not too short (R170, R171, R174). -/
def parsedResults (ref : RefPoint) (hecp : Bool) (h : BitVec 40) : Results :=
  if hecp then
    { Results.zero with
      hdr0 := hdr0Of ref h
      hdr1 := hdr1Of ref h ||| hdr1HecOf h
      hec := hecWord (hecCheckNumber h).1 (hecCheckNumber h).2
      diag := hecDiag (hecCheckNumber h).1 }
  else { Results.zero with hdr0 := hdr0Of ref h, hdr1 := hdr1Of ref h }

/-- The truth table of `IsOam` (R182). -/
def oamTable (vci : BitVec 16) (pti : BitVec 3) : Bool :=
  match pti.toNat with
  | 0b000 => vci == 3 || vci == 4
  | 0b010 => vci == 3 || vci == 4
  | 0b100 => true
  | 0b101 => true
  | _ => false

/-- The length field of the trailer as a number: `be16(n - 6)` (R201). -/
def State.lengthField (s : State) : Nat :=
  256 * (s.dataByte (s.capLen - 6)).toNat + (s.dataByte (s.capLen - 5)).toNat

/-- The guards g1 to g5, the subtractions written as sums (R201). -/
structure TrailerGuards (s : State) (aal : AalKind) : Prop where
  g1 : aal = .aal5 ∨ aal = .signallingAal
  g2 : s.repLen ≤ s.capLen
  g3 : 8 ≤ s.capLen
  g4 : s.lengthField ≠ 0 ∧ s.lengthField + 8 ≤ s.capLen
  g5 : s.capLen ≤ s.lengthField + 8 + 47

/-- The patterns of R106 with the route each one gives (R118), in the order of R251. -/
def sniffPatterns (b : Nat → Byte) : List (Bool × BitVec 4) :=
  [ (b 0 == 0xAA && b 1 == 0xAA && b 2 == 0x03, 3),
    (b 1 == 0x21, 4),
    (b 0 == 0x00 && b 1 == 0x00, 5),
    (b 2 == 0x03 && (b 3 == 0xCC || b 3 == 0x8E || (b 3 == 0x00 && b 4 == 0x80)), 6),
    (b 4 == 0x03 && (b 5 == 0xCC || b 5 == 0x8E || (b 5 == 0x00 && b 6 == 0x80)), 7),
    ((b 0).toNat / 16 == 4 || (b 0).toNat / 16 == 6, 8) ]

/-- The route code of the first pattern that matches, `RAW` when none does (R250, R251). -/
def firstMatch : List (Bool × BitVec 4) → BitVec 4
  | [] => 10
  | (hit, code) :: rest => if hit then code else firstMatch rest

/-- The route code of a payload that is sniffed from offset `off` on. -/
def State.sniffCode (s : State) (off : Nat) : BitVec 4 := firstMatch (sniffPatterns fun i => s.dataByte (off + i))

/-- `REQ_CMD.HINTV` is 1 and `TABLE5_ACCEPTS` takes the window (R243). -/
def State.Table5Takes (s : State) (hintv : Bool) (off len : Nat) : Prop :=
  hintv = true ∧ Config.table5Accepts s.req.arg (s.dataSlice off len) = true

/-- `REQ_CMD.HINTV` is 1 and `TABLE2_ACCEPTS` takes the window (R253). -/
def State.Table2Takes (s : State) (hintv : Bool) (off len : Nat) : Prop :=
  hintv = true ∧ Config.table2Accepts s.req.arg (s.dataSlice off len) = true

/-- When a command that is not bad raises `TooShort` (R310, DG0). -/
def ShortOn (s : State) : Instr → Prop
  | .hecCheck => s.capLen < 5
  | .hdrParse _ hecp => s.capLen < 4 + hecp.toNat
  | .oamClassify => False
  | .aal5Trailer _ => False
  | .cellCount => False
  | .dispatch noph _ aal => aal = .aal2 ∧ noph = false ∧ min s.capLen s.repLen < 4
  | .processCell _ hecp noph _ aal =>
    s.capLen < 4 + hecp.toNat ∨
      (aal = .aal2 ∧ noph = false ∧ min s.capLen s.repLen - (4 + hecp.toNat) < 4)
  | .processPdu noph _ aal => aal = .aal2 ∧ noph = false ∧ min s.capLen s.repLen < 4

/-- The commands that run `Dispatch` (R240, R280, R290). -/
def Dispatches : Instr → Prop
  | .hecCheck => False
  | .hdrParse _ _ => False
  | .oamClassify => False
  | .aal5Trailer _ => False
  | .cellCount => False
  | .dispatch _ _ _ => True
  | .processCell _ _ _ _ _ => True
  | .processPdu _ _ _ => True

/-- The commands that run the trailer function or the cell count (R283). -/
def ReadsPdu : Instr → Prop
  | .hecCheck => False
  | .hdrParse _ _ => False
  | .oamClassify => False
  | .aal5Trailer _ => True
  | .cellCount => True
  | .dispatch _ _ _ => False
  | .processCell _ _ _ _ _ => False
  | .processPdu _ _ _ => True

end Sys2Proof.Machine
end

