-- ==== Sys2Proof/Certificates/Slice0/Obligations.lean ====
section
/-! DEFINITION. The statements for the provers, in the order of spec/'s rules: encodings, the host's side, one group
per command, and the rules about the whole machine. -/

open Sys2Proof Sys2Proof.Machine

/-! ### Encodings -/

/-- R119, R114: every word decodes to exactly one of the eight commands, with the fields of the word, or to "bad"; the
codes of `AalKind` are the eight that R114 lists. -/
def Obligations.DecodeFollowsTheDecodingRule : Prop :=
  (∀ p ∈ aalCodes, AalKind.ofCode p.2 = p.1 ∧ p.1.code = p.2) ∧
  ∀ w : Word,
    (w.extractLsb' 11 21 ≠ 0#21 → decodeWord w = .bad .reservedBits) ∧
    (w.extractLsb' 11 21 = 0#21 →
      let op := (w.extractLsb' 0 4).toNat
      let ref := if w.getLsbD 4 then RefPoint.nni else RefPoint.uni
      let aal := AalKind.ofCode (w.extractLsb' 8 3)
      (op = 0 ∨ 9 ≤ op → decodeWord w = .bad .reservedOp) ∧
      (op = 1 → decodeWord w = .instr .hecCheck) ∧
      (op = 2 → decodeWord w = .instr (.hdrParse ref (w.getLsbD 5))) ∧
      (op = 3 → decodeWord w = .instr .oamClassify) ∧
      (op = 4 → decodeWord w = .instr (.aal5Trailer aal)) ∧
      (op = 5 → decodeWord w = .instr .cellCount) ∧
      (op = 6 → decodeWord w = .instr (.dispatch (w.getLsbD 6) (w.getLsbD 7) aal)) ∧
      (op = 7 → decodeWord w = .instr (.processCell ref (w.getLsbD 5) (w.getLsbD 6) (w.getLsbD 7) aal)) ∧
      (op = 8 → decodeWord w = .instr (.processPdu (w.getLsbD 6) (w.getLsbD 7) aal)))

/-- R114: each of the eight codes in `REQ_CMD.AAL` is legal and stands for its kind, and `RES_CLASS.AALE` shows a kind by
the same code. -/
def Obligations.AalKindCodes : Prop :=
  ∀ p ∈ aalCodes,
    (∀ w : Word, w.extractLsb' 11 21 = 0#21 → w.extractLsb' 0 4 = 4#4 → w.extractLsb' 8 3 = p.2 →
      decodeWord w = .instr (.aal5Trailer p.1)) ∧
    (∀ (s t : State) (noph hintv : Bool), s.Fits → exec (.dispatch noph hintv p.1) s = .next t →
      t.res.aalev = true ∧ t.res.aale = p.2)

/-- R108, R119, R120: decoding the word of a command gives the command back, at every value of every field. -/
def Obligations.DecodeOfEncodeIsTheCommand : Prop :=
  ∀ i : Instr, i.wellFormed = true → decodeWord (encode i) = .instr i

/-- R109: a word that decodes to a command is the command's word but for the bits the command ignores. -/
def Obligations.DecodedWordIsTheEncodingUpToIgnoredBits : Prop :=
  ∀ (w : Word) (i : Instr), decodeWord w = .instr i ↔ w &&& i.readMask = encode i

/-- The example words of R120, R140, R170, R180, R200, R206, R240, R280, R290 decode to their commands. -/
def Obligations.SpecExampleWordsDecode : Prop :=
  decodeWord 0x00000427 = .instr (.processCell .uni true false false .aal5) ∧
  decodeWord 0x00000408 = .instr (.processPdu false false .aal5) ∧
  decodeWord 0x00000032 = .instr (.hdrParse .nni true) ∧
  decodeWord 0x00000001 = .instr .hecCheck ∧
  decodeWord 0x00000003 = .instr .oamClassify ∧
  decodeWord 0x00000604 = .instr (.aal5Trailer .signallingAal) ∧
  decodeWord 0x00000005 = .instr .cellCount ∧
  decodeWord 0x00000286 = .instr (.dispatch false true .aal2)

/-! ### Reset and the host's side -/

/-- R60, R340: after reset every register reads 0 and nothing has been written to `DATA`. -/
def Obligations.ResetClearsEveryRegister : Prop :=
  (∀ n : RegNum, State.reset.readReg n = 0) ∧ State.reset.req = Request.zero ∧ State.reset.res = Results.zero ∧
    State.reset.data = []

/-- R340: the reset event clears every register, makes `DATA` unspecified again (the next draw: log 4) and starts no
command; what is to come and what the host has read stay (log 6). -/
def Obligations.ResetEventClearsEveryRegister : Prop :=
  ∀ (s : State) (es : List Event), s.pending = .reset :: es →
    step s = .next { s with
      req := Request.zero, res := Results.zero, data := [], resetDraw := s.resetDraw + 1, pending := es }

/-- R54, R34: a reserved register number reads 0 and ignores writes; the reserved bits of every result register, those
that R38 to R43, R46 and R48 do not list, read 0; the reserved bits of `REQ_CMD` are stored as written, are read back so
(log 18: deduced from R54 and R34) and make the command bad. -/
def Obligations.ReservedNumbersAndBits : Prop :=
  ∀ (s : State) (es : List Event) (v : Word),
    (∀ n : RegNum, 4 ≤ n.toNat → n.toNat ≤ 15 →
      s.readReg n = 0 ∧ (s.pending = .writeReg n v :: es → step s = .next { s with pending := es })) ∧
    (∀ n : RegNum, 16 ≤ n.toNat → s.readReg n &&& ~~~ definedBits n = 0) ∧
    (∀ p ∈ reservedBits, s.readReg p.1 &&& p.2 = 0) ∧
    (s.pending = .writeReg 0 v :: es → v.extractLsb' 11 21 ≠ 0#21 →
      ∃ t, step s = .next t ∧ t.readReg 0 = v ∧ t.res.badCmd = true)

/-- R78: a write to `REQ_CMD` starts a command; no other write and no read has a side effect; a write to a reserved
or read-only register is ignored. A read of `DATA` below `MAX_BUF` returns the byte there (log 21). -/
def Obligations.OnlyCommandWritesHaveSideEffects : Prop :=
  ∀ (s : State) (es : List Event),
    (∀ v, s.pending = .writeReg 0 v :: es →
      ∃ t, step s = .next t ∧ t.req.cmd = v ∧ t.res.done = true ∧ t.res.lastOp = v.extractLsb' 0 4) ∧
    (∀ n v, n ≠ 0 → s.pending = .writeReg n v :: es →
      step s = .next { s with
        pending := es
        req := { s.req with
          arg := if n = 1 then v else s.req.arg
          caplen := if n = 2 then v else s.req.caplen
          replen := if n = 3 then v else s.req.replen } }) ∧
    (∀ n, s.pending = .readReg n :: es →
      step s = .next { s with pending := es, returned := s.readReg n :: s.returned }) ∧
    (∀ i, i < Config.maxBuf → s.pending = .readData i :: es →
      step s = .next { s with pending := es, returned := (s.dataByte i).setWidth 32 :: s.returned }) ∧
    (∀ i b, i < Config.maxBuf → s.pending = .writeData i b :: es →
      ∃ t, step s = .next t ∧ t.req = s.req ∧ t.res = s.res ∧ t.resetDraw = s.resetDraw ∧ t.pending = es ∧
        t.returned = s.returned ∧ t.tooShortCount = s.tooShortCount ∧ t.badCount = s.badCount)

/-- R34 to R53, R79: a host read of a number returns the register of that number: 0x00 to 0x03 the request registers,
and, where the results hold what they can hold (the invariant), 0x10 to 0x1F the result registers in the order of R38 to
R53. -/
def Obligations.RegisterReadsReturnTheNamedRegister : Prop :=
  ∀ (s : State) (es : List Event),
    (∀ p ∈ s.req.byNumber, s.pending = .readReg p.1 :: es →
      step s = .next { s with pending := es, returned := p.2 :: s.returned }) ∧
    (s.Inv → ∀ p ∈ s.res.byNumber, s.pending = .readReg p.1 :: es →
      step s = .next { s with pending := es, returned := p.2 :: s.returned })

/-- R77: `DATA` is written one byte at a time at any index below `MAX_BUF`, every other byte stays, and a read
returns the byte last written (also where spec/93 U4 says any value: log 21). -/
def Obligations.DataReadReturnsTheByteLastWritten : Prop :=
  ∀ (s : State) (es : List Event) (i : Nat) (b : Byte), i < Config.maxBuf →
    s.pending = .writeData i b :: .readData i :: es →
    ∃ t u, step s = .next t ∧ (∀ a, t.dataByte a = if a = i then b else s.dataByte a) ∧
      step t = .next u ∧ u.returned = b.setWidth 32 :: s.returned

/-- Log 9: the host's write to a byte of `DATA` that does not exist stops the machine. -/
def Obligations.DataWriteOutsideTheWindowFaults : Prop :=
  ∀ (s : State) (es : List Event) (i : Nat) (b : Byte), Config.maxBuf ≤ i → s.pending = .writeData i b :: es →
    step s = .fault .noSuchDataByte

/-- Log 9, spec/93 U4: the host's read of a byte of `DATA` that does not exist returns some byte and does nothing else. -/
def Obligations.DataReadOutsideTheWindowReturnsSomeByte : Prop :=
  ∀ (s : State) (es : List Event) (i : Nat), Config.maxBuf ≤ i → s.pending = .readData i :: es →
    ∃ b : Byte, step s = .next { s with pending := es, returned := b.setWidth 32 :: s.returned }

/-- R34, R59: the host's write of a command's word to `REQ_CMD` stores the word and runs the command. -/
def Obligations.StepRunsTheDecodedCommand : Prop :=
  ∀ (s : State) (es : List Event) (w : Word) (i : Instr), s.pending = .writeReg 0 w :: es → decodeWord w = .instr i →
    step s = exec i { s with req := { s.req with cmd := w }, pending := es }

/-- R311: a reserved operation, a reserved bit or a capture longer than the window makes the command bad: results
cleared, `BAD_CMD`, `LASTOP` and `DONE` set, nothing else of the block changed. The run's refusal mark that spec/93 U6 to
U8 ask for is one higher: the model's own field and form (log 16). -/
def Obligations.BadCommandOnlySetsStatus : Prop :=
  ∀ (s : State) (es : List Event) (w : Word), s.pending = .writeReg 0 w :: es →
    w.extractLsb' 11 21 ≠ 0#21 ∨ (w.extractLsb' 0 4).toNat = 0 ∨ 9 ≤ (w.extractLsb' 0 4).toNat ∨ ¬ s.Fits →
    step s = .next { s with
      req := { s.req with cmd := w }
      pending := es
      res := { Results.zero with status := 0x3#32 ||| ((w &&& 0xF#32) <<< 4) }
      badCount := s.badCount + 1 }

/-- R121: `LOAD` leaves its bytes at the start of `DATA` and their number in `REQ_CAPLEN` and `REQ_REPLEN`, and
starts nothing. -/
def Obligations.LoadFillsTheWindowAndTheLengths : Prop :=
  ∀ (s : State) (bytes : List Byte), (HostOp.load bytes).wellFormed = true →
    ∃ t, core.run (bytes.length + 2) (s.withProgram [.load bytes]) = .next t ∧
      (∀ (i : Nat) (h : i < bytes.length), t.dataByte i = bytes[i]) ∧
      (∀ i, bytes.length ≤ i → t.dataByte i = s.dataByte i) ∧
      t.req = { s.req with caplen := BitVec.ofNat 32 bytes.length, replen := BitVec.ofNat 32 bytes.length } ∧
      t.res = s.res ∧ t.pending = []

/-- R121, R113: `OAM_CLASSIFY vci, pti` classifies its two operands, whatever they are. -/
def Obligations.OamClassifyPseudoInstructionClassifiesItsOperands : Prop :=
  ∀ (s : State) (vci : BitVec 16) (pti : BitVec 3), s.Fits →
    ∃ t, core.run 2 (s.withProgram [.oamClassify vci pti]) = .next t ∧ t.res.oamv = true ∧
      t.res.oam = oamTable vci pti

/-! ### HEC_CHECK -/

/-- R140: HEC_CHECK over five bytes writes `RES_HEC` and at most one diagnostic, and nothing else; with fewer bytes
it is too short. Every word of `OP` 1 without a reserved bit is the command; the idle cell's header has no error, five
zero bytes have one (with the tables of R147 and R148, which the spec gives from general knowledge: log 12). A command
that is too short is counted in the run's record (log 16). -/
def Obligations.HecCheckResult : Prop :=
  encode .hecCheck = 0x00000001 ∧ (∀ w : Word, w &&& 0xFFFFF80F#32 = 0x00000001#32 → decodeWord w = .instr .hecCheck) ∧
  hecCheckNumber 0x0000000152 = (.noErrorDetected, 0x00) ∧ (hecCheckNumber 0x0000000000).1 = .uncorrectable ∧
  ∀ s : State, s.Fits →
    (s.capLen < 5 → exec .hecCheck s = .next (s.endsShort Results.zero)) ∧
    (5 ≤ s.capLen →
      exec .hecCheck s = .next (s.endsWith { Results.zero with
        hec := hecWord (hecCheckNumber s.headerNumber).1 (hecCheckNumber s.headerNumber).2
        diag := hecDiag (hecCheckNumber s.headerNumber).1 }))

/-- R148: the contents of `EPOS`: 0 is "no error", each single-bit syndrome `x^(39-p) mod g(x)` gives its position,
every other entry is "uncorrectable" (from general knowledge, as the spec gives it: logs 12 and 15). -/
def Obligations.EposTableContents : Prop :=
  epos 0 = -128 ∧ (∀ p : Fin 40, epos (positionSyndrome p) = p.val) ∧
    ∀ s : Byte, s ≠ 0 → (∀ p : Fin 40, s ≠ positionSyndrome p) → epos s = 128

/-- R144: a position names the single header bit whose inversion makes the syndrome zero (logs 12 and
15). -/
def Obligations.PositionNamesTheBitThatClearsTheSyndrome : Prop :=
  ∀ (h : BitVec 40) (p : Fin 40),
    (hecCheckNumber h).1 = .correctablePosition p ↔ (hecCheckNumber (flipPosition h p)).2 = 0

/-- R149: no error is detected exactly for the one HEC byte that the first four bytes determine, 0x52 for the idle
cell and 0x55 for the all-zero header (log 12). -/
def Obligations.NoErrorExactlyForTheGeneratedHecByte : Prop :=
  (∀ h0 h1 h2 h3 h4 : Byte, (hecCheck h0 h1 h2 h3 h4).1 = .noErrorDetected ↔ h4 = hecFold h0 h1 h2 h3 ^^^ 0x55) ∧
    (hecCheck 0x00 0x00 0x00 0x01 0x52).1 = .noErrorDetected ∧
    (hecCheck 0x00 0x00 0x00 0x00 0x55).1 = .noErrorDetected

/-- R150: one inverted bit of a correct header is found at its position, two are always uncorrectable since every
position's syndrome has an odd number of 1 bits; of three inverted bits some are miscorrected and some are not found
correctable, and four can go unseen (logs 12 and 15). -/
def Obligations.HecErrorCoverage : Prop :=
  (∀ (h : BitVec 40) (p : Fin 40), (hecCheckNumber h).1 = .noErrorDetected →
    (hecCheckNumber (flipPosition h p)).1 = .correctablePosition p) ∧
  (∀ (h : BitVec 40) (p q : Fin 40), (hecCheckNumber h).1 = .noErrorDetected → p ≠ q →
    (hecCheckNumber (flipPosition (flipPosition h p) q)).1 = .uncorrectable) ∧
  (∀ p : Fin 40, ((List.range 8).countP fun i => (positionSyndrome p).getLsbD i) % 2 = 1) ∧
  hecCheckNumber 0xC200000152 = (.correctablePosition 9, 0x86) ∧
  (hecCheckNumber (0x0000000152 ^^^ 0x000000000D)).1 = .uncorrectable ∧
  (hecCheckNumber (0x0000000152 ^^^ 0x0000000107)).1 = .noErrorDetected

/-! ### HDR_PARSE and OAM_CLASSIFY -/

/-- R171, R174, R175: HDR_PARSE at both reference points, with and without a HEC byte, writes the fields of the
header bytes as read, and with a HEC byte the result of the check (with the tables of log 12 and the numbering of log
15), whatever that result is. -/
def Obligations.HdrParseFieldsAsRead : Prop :=
  ∀ (s : State) (ref : RefPoint) (hecp : Bool), s.Fits → 4 + hecp.toNat ≤ s.capLen →
    exec (.hdrParse ref hecp) s = .next (s.endsWith (parsedResults ref hecp s.headerNumber))

/-- R172, R312: a header longer than the capture ends the parse before any field is written. The run's record that
spec/93 U1 asks for is one higher: the model's own field and form (log 16). -/
def Obligations.HdrParseTooShort : Prop :=
  ∀ (s : State) (ref : RefPoint) (hecp : Bool), s.Fits → s.capLen < 4 + hecp.toNat →
    exec (.hdrParse ref hecp) s = .next (s.endsShort Results.zero)

/-- R180, R182: OAM_CLASSIFY reads the VCI and the PTI in `REQ_ARG` and writes the truth table's answer, and only
that. -/
def Obligations.OamClassifyFollowsTheTruthTable : Prop :=
  ∀ s : State, s.Fits →
    exec .oamClassify s = .next (s.endsWith { Results.zero with
      cls := 1#32 ||| ((BitVec.ofBool (oamTable (s.req.arg.extractLsb' 0 16) (s.req.arg.extractLsb' 16 3))).setWidth 32
        <<< 1) })

/-! ### AAL5_TRAILER and CELL_COUNT -/

/-- R201, R202, R204, R205: with a trailer, AAL5_TRAILER writes its fields, the CRC of the whole PDU (with the parameters
of log 13) and its verdict, and hands on the content. -/
def Obligations.Aal5TrailerPresent : Prop :=
  ∀ (s : State) (aal : AalKind), s.Fits → TrailerGuards s aal →
    exec (.aal5Trailer aal) s = .next (s.endsWith { Results.zero with
      trl0 := (s.dataByte (s.capLen - 8)).setWidth 32 ||| ((s.dataByte (s.capLen - 7)).setWidth 32 <<< 8) |||
        (BitVec.ofNat 32 s.lengthField <<< 16)
      trl1 := ((s.dataByte (s.capLen - 4)).setWidth 32 <<< 24) ||| ((s.dataByte (s.capLen - 3)).setWidth 32 <<< 16) |||
        ((s.dataByte (s.capLen - 2)).setWidth 32 <<< 8) ||| (s.dataByte (s.capLen - 1)).setWidth 32
      crcreg := crc32mpeg2 (s.dataSlice 0 s.capLen)
      aal5st := 1#32 ||| (if crc32mpeg2 (s.dataSlice 0 s.capLen) = 0xC704DD7B#32 then 2#32 else 0#32) |||
        (BitVec.ofNat 32 (s.capLen - s.lengthField - 8) <<< 8)
      diag := if crc32mpeg2 (s.dataSlice 0 s.capLen) = 0xC704DD7B#32 then 0 else 8
      outoff := 0
      outlen := BitVec.ofNat 32 s.lengthField
      outrep := BitVec.ofNat 32 s.lengthField })

/-- R201, R208: when a guard fails, AAL5_TRAILER writes no trailer field and hands on the captured bytes. -/
def Obligations.Aal5TrailerAbsent : Prop :=
  ∀ (s : State) (aal : AalKind), s.Fits → ¬ TrailerGuards s aal →
    exec (.aal5Trailer aal) s = .next (s.endsWith { Results.zero with
      outlen := BitVec.ofNat 32 (min s.capLen s.repLen)
      outrep := BitVec.ofNat 32 s.repLen })

/-- R210: the bounds when the trailer is present. -/
def Obligations.TrailerBounds : Prop :=
  ∀ (s t : State) (i : Instr), exec i s = .next t → t.res.trlp = true →
    9 ≤ s.capLen ∧ s.capLen = t.res.length.toNat + t.res.pad.toNat + 8 ∧ 1 ≤ t.res.length.toNat ∧
      t.res.length.toNat ≤ s.capLen - 8 ∧ t.res.pad.toNat ≤ 47 ∧ s.repLen ≤ s.capLen

/-- R209: the CRC check passes exactly when the CRC field is the complement of the CRC of every byte before it; the
residue is the CRC, started from 0, of four bytes FF; the CRC of the ASCII bytes "123456789" is R203's check value (the
parameters are those of log 13). -/
def Obligations.CrcCheckPassesExactlyForTheInvertedCrc : Prop :=
  (∀ (s t : State) (i : Instr), exec i s = .next t → t.res.trlp = true →
    (t.res.crcok = true ↔ s.be32 (s.capLen - 4) = ~~~ crc32mpeg2 (s.dataSlice 0 (s.capLen - 4)))) ∧
  crcFrom 0 [0xFF, 0xFF, 0xFF, 0xFF] = 0xC704DD7B#32 ∧
  crc32mpeg2 [0x31, 0x32, 0x33, 0x34, 0x35, 0x36, 0x37, 0x38, 0x39] = 0x0376E6E7#32

/-- R207: only the two length bytes decide whether the trailer is present, its length, its padding and the window;
no padding byte, `UU` or `CPI` does. -/
def Obligations.PaddingUuAndCpiAreNotChecked : Prop :=
  ∀ (s s' t t' : State) (aal : AalKind), s'.req = s.req →
    s'.dataByte (s.capLen - 6) = s.dataByte (s.capLen - 6) → s'.dataByte (s.capLen - 5) = s.dataByte (s.capLen - 5) →
    exec (.aal5Trailer aal) s = .next t → exec (.aal5Trailer aal) s' = .next t' →
    t'.res.trlp = t.res.trlp ∧ t'.res.length = t.res.length ∧ t'.res.pad = t.res.pad ∧
      t'.res.outoff = t.res.outoff ∧ t'.res.outlen = t.res.outlen ∧ t'.res.outrep = t.res.outrep

/-- R206: CELL_COUNT writes `r / 48` when `r` is a multiple of 48, 0 among them, and nothing otherwise. -/
def Obligations.CellCountResult : Prop :=
  ∀ s : State, s.Fits →
    exec .cellCount s = .next (s.endsWith
      (if s.repLen % 48 = 0 then { Results.zero with cells := BitVec.ofNat 32 (s.repLen / 48), aal5st := 4 }
        else Results.zero))

/-! ### DISPATCH -/

/-- R242: a signalling payload goes to SSCOP, whatever the hint and the bytes. -/
def Obligations.DispatchSignalling : Prop :=
  ∀ (s : State) (noph hintv : Bool), s.Fits →
    exec (.dispatch noph hintv .signallingAal) s = .next (s.endsWith { Results.zero with
      cls := 0x64
      route := 1
      outlen := BitVec.ofNat 32 (min s.capLen s.repLen)
      outrep := BitVec.ofNat 32 s.repLen })

/-- R243 to R251: an AAL5 payload goes to the table that accepts it with a known hint; otherwise, with more than
7 bytes, to the first pattern of R106 that matches, where bridged Ethernet strips two bytes and IP shows its
version; otherwise to `RAW` (PPP value: log 14). -/
def Obligations.DispatchAal5 : Prop :=
  ∀ (s : State) (noph hintv : Bool), s.Fits →
    let len := min s.capLen s.repLen
    (s.Table5Takes hintv 0 len →
      exec (.dispatch noph hintv .aal5) s = .next (s.endsWith { Results.zero with
        cls := 0x44
        route := 0x12
        key := s.req.arg
        outlen := BitVec.ofNat 32 len
        outrep := BitVec.ofNat 32 s.repLen })) ∧
    (¬ s.Table5Takes hintv 0 len → 7 < len →
      exec (.dispatch noph hintv .aal5) s = .next (s.endsWith { Results.zero with
        cls := 0x44
        route := (s.sniffCode 0).setWidth 32 |||
          (if s.sniffCode 0 = 8 then BitVec.ofNat 32 ((s.dataByte 0).toNat / 16) <<< 8 else 0#32)
        outoff := if s.sniffCode 0 = 5 then 2 else 0
        outlen := BitVec.ofNat 32 (if s.sniffCode 0 = 5 then len - 2 else len)
        outrep := BitVec.ofNat 32 (if s.sniffCode 0 = 5 then s.repLen - 2 else s.repLen) })) ∧
    (¬ s.Table5Takes hintv 0 len → len ≤ 7 →
      exec (.dispatch noph hintv .aal5) s = .next (s.endsWith { Results.zero with
        cls := 0x44
        route := 10
        outlen := BitVec.ofNat 32 len
        outrep := BitVec.ofNat 32 s.repLen }))

/-- R252, R253: an AAL2 payload loses its 4-byte sub-header unless there is none, then goes to the table that accepts
it with a known hint, otherwise to `RAW`; a payload shorter than the sub-header is too short, and counted in
the run's record (log 16). -/
def Obligations.DispatchAal2 : Prop :=
  ∀ (s : State) (noph hintv : Bool), s.Fits →
    let len := min s.capLen s.repLen
    let k := if noph then 0 else 4
    (noph = false → len < 4 →
      exec (.dispatch noph hintv .aal2) s = .next (s.endsShort { Results.zero with cls := 0x24 })) ∧
    (noph = true ∨ 4 ≤ len → s.Table2Takes hintv k (len - k) →
      exec (.dispatch noph hintv .aal2) s = .next (s.endsWith { Results.zero with
        cls := 0x24
        route := 0x19
        key := s.req.arg
        outoff := BitVec.ofNat 32 k
        outlen := BitVec.ofNat 32 (len - k)
        outrep := BitVec.ofNat 32 (s.repLen - k) })) ∧
    (noph = true ∨ 4 ≤ len → ¬ s.Table2Takes hintv k (len - k) →
      exec (.dispatch noph hintv .aal2) s = .next (s.endsWith { Results.zero with
        cls := 0x24
        route := 10
        outoff := BitVec.ofNat 32 k
        outlen := BitVec.ofNat 32 (len - k)
        outrep := BitVec.ofNat 32 (s.repLen - k) }))

/-- R254: every other AAL kind goes to `RAW` over the whole window. -/
def Obligations.DispatchEverythingElseIsRaw : Prop :=
  ∀ (s : State) (noph hintv : Bool) (aal : AalKind), s.Fits →
    aal = .unknown ∨ aal = .aal1 ∨ aal = .aal34 ∨ aal = .userAal ∨ aal = .oamCell →
    exec (.dispatch noph hintv aal) s = .next (s.endsWith { Results.zero with
      cls := 4#32 ||| (aal.code.setWidth 32 <<< 4)
      route := 10
      outlen := BitVec.ofNat 32 (min s.capLen s.repLen)
      outrep := BitVec.ofNat 32 s.repLen })

/-- R256: a command that dispatches and is neither bad nor too short decides exactly one route, never `NONE`; a key
is valid exactly for the table routes, an IP version is non-zero exactly for `IP`. -/
def Obligations.EveryDispatchDecidesOneRoute : Prop :=
  ∀ (s t : State) (i : Instr), Dispatches i → s.Fits → exec i s = .next t →
    (t.res.tooShort = false → t.res.routeCode ≠ 0 ∧ t.res.routeCode.toNat ≤ 10) ∧
    (t.res.keyv = true ↔ t.res.routeCode = 2 ∨ t.res.routeCode = 9) ∧
    (t.res.ipver ≠ 0 ↔ t.res.routeCode = 8)

/-- R255: every window handed on lies inside the captured bytes. -/
def Obligations.WindowLiesInsideTheCapture : Prop :=
  ∀ (s t : State) (i : Instr), exec i s = .next t → t.res.outoff.toNat + t.res.outlen.toNat ≤ s.capLen

/-! ### PROCESS_CELL and PROCESS_PDU -/

/-- R280 to R282: PROCESS_CELL with its header captured shows the header as HDR_PARSE does, classifies the fields as
read, upgrades the AAL kind, and routes the bytes after the header as DISPATCH routes them standing alone (`p`), with
the window moved past the header (HEC tables: logs 12 and 15; PPP value: log 14). -/
def Obligations.ProcessCellIsParseClassifyDispatch : Prop :=
  ∀ (s p : State) (ref : RefPoint) (hecp noph hintv : Bool) (aal : AalKind), s.Fits → 4 + hecp.toNat ≤ s.capLen →
    p.capLen = s.capLen - (4 + hecp.toNat) → p.repLen = s.repLen - (4 + hecp.toNat) → p.req.arg = s.req.arg →
    (∀ k, k < p.capLen → p.dataByte k = s.dataByte (4 + hecp.toNat + k)) →
    let oam := oamTable (s.headerNumber.extractLsb' 12 16) (s.headerNumber.extractLsb' 9 3)
    let aale := if oam = true ∧ (aal = .unknown ∨ aal = .userAal) then AalKind.oamCell else aal
    let parsed := parsedResults ref hecp s.headerNumber
    ∃ t u, exec (.processCell ref hecp noph hintv aal) s = .next t ∧ exec (.dispatch noph hintv aale) p = .next u ∧
      t.res = { parsed with
        status := s.endStatus
        diag := parsed.diag ||| u.res.diag
        cls := u.res.cls ||| 1#32 ||| ((BitVec.ofBool oam).setWidth 32 <<< 1)
        route := u.res.route
        key := u.res.key
        outoff := if u.res.tooShort then 0 else u.res.outoff + BitVec.ofNat 32 (4 + hecp.toNat)
        outlen := u.res.outlen
        outrep := u.res.outrep } ∧
      s.SameOutsideResults t

/-- R280, R172: PROCESS_CELL with its header not captured is too short, and nothing after the parse runs;
the run's record counts it (log 16). -/
def Obligations.ProcessCellTooShort : Prop :=
  ∀ (s : State) (ref : RefPoint) (hecp noph hintv : Bool) (aal : AalKind), s.Fits → s.capLen < 4 + hecp.toNat →
    exec (.processCell ref hecp noph hintv aal) s = .next (s.endsShort Results.zero)

/-- R281: the effective AAL kind that PROCESS_CELL routes by: only `Unknown` and `UserAal` become `OamCell`, and the
classifier's result is shown for every kind. -/
def Obligations.EffectiveAalKind : Prop :=
  ∀ (s t : State) (ref : RefPoint) (hecp noph hintv : Bool) (aal : AalKind), s.Fits → 4 + hecp.toNat ≤ s.capLen →
    exec (.processCell ref hecp noph hintv aal) s = .next t →
    t.res.oamv = true ∧ t.res.oam = oamTable t.res.vci t.res.pti ∧ t.res.aalev = true ∧
      (t.res.oam = true ∧ (aal = .unknown ∨ aal = .userAal) → t.res.aale = 7) ∧
      (¬ (t.res.oam = true ∧ (aal = .unknown ∨ aal = .userAal)) → t.res.aale = aal.code)

/-- R283: the trailer function and the cell count run only in PROCESS_PDU and in their own commands. -/
def Obligations.NoTrailerOutsidePduCommands : Prop :=
  ∀ (s t : State) (i : Instr), ¬ ReadsPdu i → exec i s = .next t →
    t.res.trl0 = 0 ∧ t.res.trl1 = 0 ∧ t.res.aal5st = 0 ∧ t.res.cells = 0 ∧ t.res.crcreg = 0 ∧ t.res.crcBad = false

/-- R290: PROCESS_PDU counts cells as CELL_COUNT does, shows the trailer as AAL5_TRAILER does, and routes the window
AAL5_TRAILER hands on as DISPATCH routes it standing alone (`p`) (CRC parameters: log 13; PPP value: log 14). -/
def Obligations.ProcessPduIsCountTrailerDispatch : Prop :=
  ∀ (s p : State) (noph hintv : Bool) (aal : AalKind), s.Fits →
    ∃ t c a, exec (.processPdu noph hintv aal) s = .next t ∧ exec .cellCount s = .next c ∧
      exec (.aal5Trailer aal) s = .next a ∧
      (p.req.caplen = a.res.outlen → p.req.replen = a.res.outrep → p.req.arg = s.req.arg →
        (∀ k, k < p.capLen → p.dataByte k = s.dataByte k) →
        ∃ u, exec (.dispatch noph hintv aal) p = .next u ∧
          t.res = { a.res with
            status := s.endStatus
            diag := a.res.diag ||| u.res.diag
            aal5st := a.res.aal5st ||| c.res.aal5st
            cells := c.res.cells
            cls := u.res.cls
            route := u.res.route
            key := u.res.key
            outoff := u.res.outoff
            outlen := u.res.outlen
            outrep := u.res.outrep } ∧
          s.SameOutsideResults t)

/-- R291: PROCESS_PDU does not classify and routes by the AAL kind it is given. -/
def Obligations.ProcessPduDoesNotClassify : Prop :=
  ∀ (s t : State) (noph hintv : Bool) (aal : AalKind), s.Fits → exec (.processPdu noph hintv aal) s = .next t →
    t.res.oamv = false ∧ t.res.oam = false ∧ t.res.aalev = true ∧ t.res.aale = aal.code ∧ t.res.hdr0 = 0 ∧
      t.res.hdr1 = 0 ∧ t.res.hec = 0

/-- R292: the cell count runs for every PROCESS_PDU, whatever the AAL kind and the trailer. -/
def Obligations.ProcessPduAlwaysCountsCells : Prop :=
  ∀ (s t : State) (noph hintv : Bool) (aal : AalKind), s.Fits → exec (.processPdu noph hintv aal) s = .next t →
    (s.repLen % 48 = 0 → t.res.cellsv = true ∧ t.res.cells = BitVec.ofNat 32 (s.repLen / 48)) ∧
    (s.repLen % 48 ≠ 0 → t.res.cellsv = false ∧ t.res.cells = 0)

/-- R293: a signalling PDU's trailer is processed as for AAL5, and SSCOP is handed the content when the trailer is
present and the whole PDU otherwise. -/
def Obligations.SignallingPduGoesToSscop : Prop :=
  ∀ (s : State) (noph hintv : Bool), s.Fits →
    ∃ t a, exec (.processPdu noph hintv .signallingAal) s = .next t ∧ exec (.aal5Trailer .aal5) s = .next a ∧
      t.res.routeCode = 1 ∧ t.res.trl0 = a.res.trl0 ∧ t.res.trl1 = a.res.trl1 ∧ t.res.crcreg = a.res.crcreg ∧
      t.res.trlp = a.res.trlp ∧ t.res.crcok = a.res.crcok ∧ t.res.pad = a.res.pad ∧ t.res.diag = a.res.diag ∧
      t.res.outoff = 0 ∧
      (TrailerGuards s .signallingAal →
        t.res.outlen = BitVec.ofNat 32 s.lengthField ∧ t.res.outrep = BitVec.ofNat 32 s.lengthField) ∧
      (¬ TrailerGuards s .signallingAal →
        t.res.outlen = BitVec.ofNat 32 (min s.capLen s.repLen) ∧ t.res.outrep = BitVec.ofNat 32 s.repLen)

/-- R294: the data-flow commands do not stop on a HEC or CRC diagnostic; each stops early only on `TooShort`, and
then every result not yet written reads 0. -/
def Obligations.DataFlowStopsEarlyOnlyWhenTooShort : Prop :=
  ∀ (s t : State) (i : Instr),
    (∃ ref hecp noph hintv aal, i = .processCell ref hecp noph hintv aal) ∨
      (∃ noph hintv aal, i = .processPdu noph hintv aal) →
    s.Fits → exec i s = .next t →
    (t.res.tooShort = true ↔ t.res.routeCode = 0) ∧
    (t.res.tooShort = true →
      t.res.route = 0 ∧ t.res.key = 0 ∧ t.res.outoff = 0 ∧ t.res.outlen = 0 ∧ t.res.outrep = 0)

/-! ### The whole machine -/

/-- R72, R347: no command changes a byte of `DATA`, a request register, or anything else but the results and the
run's records. -/
def Obligations.NoCommandWritesDataOrRequests : Prop :=
  ∀ (s t : State) (i : Instr), exec i s = .next t → s.SameOutsideResults t

/-- R59, R317: every command ends, at once, with `DONE` set and `LASTOP` a copy of `REQ_CMD.OP`; it is bad exactly
when the capture does not fit the window (R311). -/
def Obligations.EveryCommandCompletes : Prop :=
  ∀ (s : State) (i : Instr), ∃ t, exec i s = .next t ∧ t.res.done = true ∧ t.res.lastOp = s.req.cmd.extractLsb' 0 4 ∧
    (t.res.badCmd = true ↔ ¬ s.Fits)

/-- R58, R73, R295: a command's results depend only on the request registers and the bytes of `DATA` below
`REQ_CAPLEN`: no earlier result, no byte at or above `REQ_CAPLEN`, nothing hidden. -/
def Obligations.ResultsDependOnlyOnRequestsAndCapturedBytes : Prop :=
  ∀ (s s' t t' : State) (i : Instr), s'.req = s.req → (∀ k, k < s.capLen → s'.dataByte k = s.dataByte k) →
    exec i s = .next t → exec i s' = .next t' → t'.res = t.res

/-- R310: when `TOO_SHORT` is raised, command by command. -/
def Obligations.TooShortIsRaisedExactlyForMissingBytes : Prop :=
  ∀ (s t : State) (i : Instr), s.Fits → exec i s = .next t → (t.res.tooShort = true ↔ ShortOn s i)

/-- R314: a bad command sets no diagnostic; the two HEC diagnostics exclude each other; `CRC_BAD` meets no other. -/
def Obligations.DiagnosticsThatExcludeEachOther : Prop :=
  ∀ (s t : State) (i : Instr), exec i s = .next t →
    (t.res.badCmd = true → t.res.diag = 0) ∧
    ¬ (t.res.hecCorrectable = true ∧ t.res.hecUncorrectable = true) ∧
    (t.res.crcBad = true → t.res.tooShort = false ∧ t.res.hecCorrectable = false ∧ t.res.hecUncorrectable = false)

/-- spec/93 U1, U6 to U8 (log 16): the run's records count every command that was too short and every bad one, and
no command takes a mark away. -/
def Obligations.RunRecordsCountShortAndBadCommands : Prop :=
  ∀ (s t : State) (i : Instr), exec i s = .next t →
    t.tooShortCount = s.tooShortCount + t.res.tooShort.toNat ∧ t.badCount = s.badCount + t.res.badCmd.toNat

/-- The invariant holds after reset. -/
def Obligations.InvariantHoldsAfterReset : Prop := State.reset.Inv

/-- The invariant is kept by every step from every state that has it. -/
def Obligations.StepKeepsTheInvariant : Prop :=
  ∀ s t : State, s.Inv → step s = .next t → t.Inv
end

