-- ==== Sys2Proof/Laws/Bits.lean ====
section
/-! SUPPORT. What writing a field of a register does, bit by bit and field by field (spec/00_scope.md R11). -/

namespace Sys2Proof.Machine

/-- A field write decides exactly the bits of its field. -/
theorem getLsbD_putField (r : Word) (lo : Nat) {w : Nat} (v : BitVec w) (i : Nat) :
    (putField r lo v).getLsbD i =
      if lo ≤ i ∧ i < lo + w ∧ i < 32 then v.getLsbD (i - lo) else r.getLsbD i := by
  by_cases h32 : i < 32
  · by_cases hlo : lo ≤ i
    · by_cases hw : i < lo + w
      · have h1 : i - lo < w := by omega
        have h3 : ¬ i < lo := by omega
        simp [putField, fieldMask, h32, hlo, hw, h1, h3]
      · have h1 : ¬ i - lo < w := by omega
        have h3 : ¬ i < lo := by omega
        simp [putField, fieldMask, h32, hlo, hw, h3, BitVec.getLsbD_of_ge _ _ (Nat.le_of_not_lt h1)]
    · have h3 : i < lo := by omega
      simp [putField, fieldMask, h32, hlo, h3]
  · have h : 32 ≤ i := by omega
    simp [h32, BitVec.getLsbD_of_ge _ _ h]

/-- A field read back is the value written. -/
theorem getField_putField_same (r : Word) (lo : Nat) {w : Nat} (v : BitVec w) (h : lo + w ≤ 32) :
    getField (putField r lo v) lo w = v := by
  apply BitVec.eq_of_getLsbD_eq
  intro i hi
  have h1 : lo ≤ lo + i ∧ lo + i < lo + w ∧ lo + i < 32 := by omega
  simp only [getField, BitVec.getLsbD_extractLsb', getLsbD_putField, hi, decide_true, Bool.true_and]
  rw [if_pos h1, Nat.add_sub_cancel_left]

/-- A field write leaves every field beside it as it was. -/
theorem getField_putField_other (r : Word) (lo : Nat) {w : Nat} (v : BitVec w) (lo' w' : Nat)
    (h : lo' + w' ≤ lo ∨ lo + w ≤ lo') : getField (putField r lo v) lo' w' = getField r lo' w' := by
  apply BitVec.eq_of_getLsbD_eq
  intro i hi
  have h1 : ¬ (lo ≤ lo' + i ∧ lo' + i < lo + w ∧ lo' + i < 32) := by omega
  simp only [getField, BitVec.getLsbD_extractLsb', getLsbD_putField, hi, decide_true, Bool.true_and]
  rw [if_neg h1]

/-- Two bytes, the first the more significant, as a number (R10, R74). -/
theorem toNat_append_bytes (a b : Byte) : (a ++ b).toNat = 256 * a.toNat + b.toNat := by
  have h := b.isLt
  rw [BitVec.toNat_append, ← Nat.shiftLeft_add_eq_or_of_lt h, Nat.shiftLeft_eq]
  omega

/-- A flag is the bit of its one-bit field. -/
@[simp] theorem getLsbD_bit (b : Bool) (i : Nat) : (bit b).getLsbD i = (decide (i = 0) && b) := by
  cases i <;> simp [bit]

@[simp] theorem getElem_bit (b : Bool) (i : Nat) (h : i < 1) : (bit b)[i] = b := by
  have : i = 0 := by omega
  subst this
  cases b <;> simp [bit]

/-- Writing a field of a register that is 0 leaves the field's value at its place. -/
theorem putField_zero (lo : Nat) {w : Nat} (v : BitVec w) : putField 0 lo v = v.setWidth 32 <<< lo := by
  simp [putField]

/-- A field write where the field's bits are 0 only adds the value's bits. -/
theorem putField_of_clear (r : Word) (lo : Nat) {w : Nat} (v : BitVec w) (h : r &&& fieldMask lo w = 0) :
    putField r lo v = r ||| (v.setWidth 32 <<< lo) := by
  have hr : r &&& ~~~ fieldMask lo w = r := by
    apply BitVec.eq_of_getLsbD_eq
    intro i hi
    have hb := congrArg (fun x => BitVec.getLsbD x i) h
    simp only [BitVec.getLsbD_and] at hb
    simp only [BitVec.getLsbD_and, BitVec.getLsbD_not, hi, decide_true, Bool.true_and]
    cases hx : r.getLsbD i <;> simp_all
  rw [putField, hr]

end Sys2Proof.Machine
end

