-- ==== Sys2Proof/Laws/State.lean ====
section
/-! SUPPORT. One lemma per field and update of State, so that no proof unfolds a record update. -/

namespace Sys2Proof.Machine

@[simp] theorem State.setReq_req (s : State) (q : Request) : (s.setReq q).req = q := rfl
@[simp] theorem State.setReq_res (s : State) (q : Request) : (s.setReq q).res = s.res := rfl
@[simp] theorem State.setReq_data (s : State) (q : Request) : (s.setReq q).data = s.data := rfl
@[simp] theorem State.setReq_resetDraw (s : State) (q : Request) : (s.setReq q).resetDraw = s.resetDraw := rfl
@[simp] theorem State.setReq_pending (s : State) (q : Request) : (s.setReq q).pending = s.pending := rfl
@[simp] theorem State.setReq_returned (s : State) (q : Request) : (s.setReq q).returned = s.returned := rfl
@[simp] theorem State.setReq_tooShortCount (s : State) (q : Request) : (s.setReq q).tooShortCount = s.tooShortCount := rfl
@[simp] theorem State.setReq_badCount (s : State) (q : Request) : (s.setReq q).badCount = s.badCount := rfl

@[simp] theorem State.setCmd_req (s : State) (w : Word) : (s.setCmd w).req = { s.req with cmd := w } := rfl
@[simp] theorem State.setCmd_res (s : State) (w : Word) : (s.setCmd w).res = s.res := rfl
@[simp] theorem State.setCmd_data (s : State) (w : Word) : (s.setCmd w).data = s.data := rfl
@[simp] theorem State.setCmd_resetDraw (s : State) (w : Word) : (s.setCmd w).resetDraw = s.resetDraw := rfl
@[simp] theorem State.setCmd_pending (s : State) (w : Word) : (s.setCmd w).pending = s.pending := rfl
@[simp] theorem State.setCmd_returned (s : State) (w : Word) : (s.setCmd w).returned = s.returned := rfl
@[simp] theorem State.setCmd_tooShortCount (s : State) (w : Word) : (s.setCmd w).tooShortCount = s.tooShortCount := rfl
@[simp] theorem State.setCmd_badCount (s : State) (w : Word) : (s.setCmd w).badCount = s.badCount := rfl

@[simp] theorem State.setRes_req (s : State) (r : Results) : (s.setRes r).req = s.req := rfl
@[simp] theorem State.setRes_res (s : State) (r : Results) : (s.setRes r).res = r := rfl
@[simp] theorem State.setRes_data (s : State) (r : Results) : (s.setRes r).data = s.data := rfl
@[simp] theorem State.setRes_resetDraw (s : State) (r : Results) : (s.setRes r).resetDraw = s.resetDraw := rfl
@[simp] theorem State.setRes_pending (s : State) (r : Results) : (s.setRes r).pending = s.pending := rfl
@[simp] theorem State.setRes_returned (s : State) (r : Results) : (s.setRes r).returned = s.returned := rfl
@[simp] theorem State.setRes_tooShortCount (s : State) (r : Results) : (s.setRes r).tooShortCount = s.tooShortCount := rfl
@[simp] theorem State.setRes_badCount (s : State) (r : Results) : (s.setRes r).badCount = s.badCount := rfl

@[simp] theorem State.writeByte_req (s : State) (i : Nat) (b : Byte) : (s.writeByte i b).req = s.req := rfl
@[simp] theorem State.writeByte_res (s : State) (i : Nat) (b : Byte) : (s.writeByte i b).res = s.res := rfl
@[simp] theorem State.writeByte_data (s : State) (i : Nat) (b : Byte) : (s.writeByte i b).data = s.data.write i b := rfl
@[simp] theorem State.writeByte_resetDraw (s : State) (i : Nat) (b : Byte) : (s.writeByte i b).resetDraw = s.resetDraw := rfl
@[simp] theorem State.writeByte_pending (s : State) (i : Nat) (b : Byte) : (s.writeByte i b).pending = s.pending := rfl
@[simp] theorem State.writeByte_returned (s : State) (i : Nat) (b : Byte) : (s.writeByte i b).returned = s.returned := rfl
@[simp] theorem State.writeByte_tooShortCount (s : State) (i : Nat) (b : Byte) : (s.writeByte i b).tooShortCount = s.tooShortCount := rfl
@[simp] theorem State.writeByte_badCount (s : State) (i : Nat) (b : Byte) : (s.writeByte i b).badCount = s.badCount := rfl

@[simp] theorem State.setPending_req (s : State) (es : List Event) : (s.setPending es).req = s.req := rfl
@[simp] theorem State.setPending_res (s : State) (es : List Event) : (s.setPending es).res = s.res := rfl
@[simp] theorem State.setPending_data (s : State) (es : List Event) : (s.setPending es).data = s.data := rfl
@[simp] theorem State.setPending_resetDraw (s : State) (es : List Event) : (s.setPending es).resetDraw = s.resetDraw := rfl
@[simp] theorem State.setPending_pending (s : State) (es : List Event) : (s.setPending es).pending = es := rfl
@[simp] theorem State.setPending_returned (s : State) (es : List Event) : (s.setPending es).returned = s.returned := rfl
@[simp] theorem State.setPending_tooShortCount (s : State) (es : List Event) : (s.setPending es).tooShortCount = s.tooShortCount := rfl
@[simp] theorem State.setPending_badCount (s : State) (es : List Event) : (s.setPending es).badCount = s.badCount := rfl

@[simp] theorem State.giveHost_req (s : State) (v : Word) : (s.giveHost v).req = s.req := rfl
@[simp] theorem State.giveHost_res (s : State) (v : Word) : (s.giveHost v).res = s.res := rfl
@[simp] theorem State.giveHost_data (s : State) (v : Word) : (s.giveHost v).data = s.data := rfl
@[simp] theorem State.giveHost_resetDraw (s : State) (v : Word) : (s.giveHost v).resetDraw = s.resetDraw := rfl
@[simp] theorem State.giveHost_pending (s : State) (v : Word) : (s.giveHost v).pending = s.pending := rfl
@[simp] theorem State.giveHost_returned (s : State) (v : Word) : (s.giveHost v).returned = v :: s.returned := rfl
@[simp] theorem State.giveHost_tooShortCount (s : State) (v : Word) : (s.giveHost v).tooShortCount = s.tooShortCount := rfl
@[simp] theorem State.giveHost_badCount (s : State) (v : Word) : (s.giveHost v).badCount = s.badCount := rfl

@[simp] theorem State.noteTooShort_req (s : State) (b : Bool) : (s.noteTooShort b).req = s.req := rfl
@[simp] theorem State.noteTooShort_res (s : State) (b : Bool) : (s.noteTooShort b).res = s.res := rfl
@[simp] theorem State.noteTooShort_data (s : State) (b : Bool) : (s.noteTooShort b).data = s.data := rfl
@[simp] theorem State.noteTooShort_resetDraw (s : State) (b : Bool) : (s.noteTooShort b).resetDraw = s.resetDraw := rfl
@[simp] theorem State.noteTooShort_pending (s : State) (b : Bool) : (s.noteTooShort b).pending = s.pending := rfl
@[simp] theorem State.noteTooShort_returned (s : State) (b : Bool) : (s.noteTooShort b).returned = s.returned := rfl
@[simp] theorem State.noteTooShort_tooShortCount (s : State) (b : Bool) : (s.noteTooShort b).tooShortCount = s.tooShortCount + b.toNat := rfl
@[simp] theorem State.noteTooShort_badCount (s : State) (b : Bool) : (s.noteTooShort b).badCount = s.badCount := rfl

@[simp] theorem State.noteBad_req (s : State) : s.noteBad.req = s.req := rfl
@[simp] theorem State.noteBad_res (s : State) : s.noteBad.res = s.res := rfl
@[simp] theorem State.noteBad_data (s : State) : s.noteBad.data = s.data := rfl
@[simp] theorem State.noteBad_resetDraw (s : State) : s.noteBad.resetDraw = s.resetDraw := rfl
@[simp] theorem State.noteBad_pending (s : State) : s.noteBad.pending = s.pending := rfl
@[simp] theorem State.noteBad_returned (s : State) : s.noteBad.returned = s.returned := rfl
@[simp] theorem State.noteBad_tooShortCount (s : State) : s.noteBad.tooShortCount = s.tooShortCount := rfl
@[simp] theorem State.noteBad_badCount (s : State) : s.noteBad.badCount = s.badCount + 1 := rfl

@[simp] theorem State.afterReset_req (s : State) : s.afterReset.req = Request.zero := rfl
@[simp] theorem State.afterReset_res (s : State) : s.afterReset.res = Results.zero := rfl
@[simp] theorem State.afterReset_data (s : State) : s.afterReset.data = [] := rfl
@[simp] theorem State.afterReset_resetDraw (s : State) : s.afterReset.resetDraw = s.resetDraw + 1 := rfl
@[simp] theorem State.afterReset_pending (s : State) : s.afterReset.pending = s.pending := rfl
@[simp] theorem State.afterReset_returned (s : State) : s.afterReset.returned = s.returned := rfl
@[simp] theorem State.afterReset_tooShortCount (s : State) : s.afterReset.tooShortCount = s.tooShortCount := rfl
@[simp] theorem State.afterReset_badCount (s : State) : s.afterReset.badCount = s.badCount := rfl

@[simp] theorem Results.setWindow_status (r : Results) (w : Window) : (r.setWindow w).status = r.status := rfl
@[simp] theorem Results.setWindow_diag (r : Results) (w : Window) : (r.setWindow w).diag = r.diag := rfl
@[simp] theorem Results.setWindow_hdr0 (r : Results) (w : Window) : (r.setWindow w).hdr0 = r.hdr0 := rfl
@[simp] theorem Results.setWindow_hdr1 (r : Results) (w : Window) : (r.setWindow w).hdr1 = r.hdr1 := rfl
@[simp] theorem Results.setWindow_hec (r : Results) (w : Window) : (r.setWindow w).hec = r.hec := rfl
@[simp] theorem Results.setWindow_cls (r : Results) (w : Window) : (r.setWindow w).cls = r.cls := rfl
@[simp] theorem Results.setWindow_trl0 (r : Results) (w : Window) : (r.setWindow w).trl0 = r.trl0 := rfl
@[simp] theorem Results.setWindow_trl1 (r : Results) (w : Window) : (r.setWindow w).trl1 = r.trl1 := rfl
@[simp] theorem Results.setWindow_aal5st (r : Results) (w : Window) : (r.setWindow w).aal5st = r.aal5st := rfl
@[simp] theorem Results.setWindow_cells (r : Results) (w : Window) : (r.setWindow w).cells = r.cells := rfl
@[simp] theorem Results.setWindow_route (r : Results) (w : Window) : (r.setWindow w).route = r.route := rfl
@[simp] theorem Results.setWindow_key (r : Results) (w : Window) : (r.setWindow w).key = r.key := rfl
@[simp] theorem Results.setWindow_outoff (r : Results) (w : Window) : (r.setWindow w).outoff = BitVec.ofNat 32 w.off := rfl
@[simp] theorem Results.setWindow_outlen (r : Results) (w : Window) : (r.setWindow w).outlen = BitVec.ofNat 32 w.len := rfl
@[simp] theorem Results.setWindow_outrep (r : Results) (w : Window) : (r.setWindow w).outrep = BitVec.ofNat 32 w.rep := rfl
@[simp] theorem Results.setWindow_crcreg (r : Results) (w : Window) : (r.setWindow w).crcreg = r.crcreg := rfl

@[simp] theorem Results.zero_status : Results.zero.status = 0 := rfl
@[simp] theorem Results.zero_diag : Results.zero.diag = 0 := rfl
@[simp] theorem Results.zero_hdr0 : Results.zero.hdr0 = 0 := rfl
@[simp] theorem Results.zero_hdr1 : Results.zero.hdr1 = 0 := rfl
@[simp] theorem Results.zero_hec : Results.zero.hec = 0 := rfl
@[simp] theorem Results.zero_cls : Results.zero.cls = 0 := rfl
@[simp] theorem Results.zero_trl0 : Results.zero.trl0 = 0 := rfl
@[simp] theorem Results.zero_trl1 : Results.zero.trl1 = 0 := rfl
@[simp] theorem Results.zero_aal5st : Results.zero.aal5st = 0 := rfl
@[simp] theorem Results.zero_cells : Results.zero.cells = 0 := rfl
@[simp] theorem Results.zero_route : Results.zero.route = 0 := rfl
@[simp] theorem Results.zero_key : Results.zero.key = 0 := rfl
@[simp] theorem Results.zero_outoff : Results.zero.outoff = 0 := rfl
@[simp] theorem Results.zero_outlen : Results.zero.outlen = 0 := rfl
@[simp] theorem Results.zero_outrep : Results.zero.outrep = 0 := rfl
@[simp] theorem Results.zero_crcreg : Results.zero.crcreg = 0 := rfl

/-- A byte of `DATA` depends on the window and the draw alone. -/
theorem dataByte_congr (s t : State) (hd : t.data = s.data) (hr : t.resetDraw = s.resetDraw) (a : Nat) :
    t.dataByte a = s.dataByte a := by
  simp [State.dataByte, State.unwrittenByte, hd, hr]

@[simp] theorem State.setReq_dataByte (s : State) (q : Request) (a : Nat) : (s.setReq q).dataByte a = s.dataByte a := rfl
@[simp] theorem State.setCmd_dataByte (s : State) (w : Word) (a : Nat) : (s.setCmd w).dataByte a = s.dataByte a := rfl
@[simp] theorem State.setRes_dataByte (s : State) (r : Results) (a : Nat) : (s.setRes r).dataByte a = s.dataByte a := rfl
@[simp] theorem State.setPending_dataByte (s : State) (es : List Event) (a : Nat) : (s.setPending es).dataByte a = s.dataByte a := rfl
@[simp] theorem State.setPending_hostByte (s : State) (es : List Event) (a : Nat) : (s.setPending es).hostByte a = s.hostByte a := rfl
@[simp] theorem State.giveHost_dataByte (s : State) (v : Word) (a : Nat) : (s.giveHost v).dataByte a = s.dataByte a := rfl
@[simp] theorem State.noteTooShort_dataByte (s : State) (b : Bool) (a : Nat) : (s.noteTooShort b).dataByte a = s.dataByte a := rfl
@[simp] theorem State.noteBad_dataByte (s : State) (a : Nat) : s.noteBad.dataByte a = s.dataByte a := rfl

end Sys2Proof.Machine
end

