-- ==== Sys2Proof/Laws/Command.lean ====
section
/-! SUPPORT. How every command starts and ends (spec/10_state.md R59, spec/60_exceptions.md R311, R312): the lemmas
the claims cite instead of unfolding `runCommand`. -/

namespace Sys2Proof.Machine

/-- Setting a flag only adds its bit. -/
theorem putField_bit_true (r : Word) (k : Nat) (h : k < 32) : putField r k (bit true) = r ||| (1#32 <<< k) := by
  apply BitVec.eq_of_getLsbD_eq
  intro i hi
  rw [getLsbD_putField]
  by_cases hk : i = k
  · subst hk; simp [h]
  · have h1 : ¬ (k ≤ i ∧ i < k + 1 ∧ i < 32) := by omega
    rw [if_neg h1, BitVec.getLsbD_or, BitVec.getLsbD_shiftLeft]
    by_cases h2 : i < k
    · simp [h2]
    · have h3 : i - k ≠ 0 := by omega
      simp [h2, hi, h3, BitVec.getLsbD_one]

/-- `RES_STATUS` at the end of a command: `DONE`, `BAD_CMD` as given, and `LASTOP` the low four bits of the word. -/
theorem statusWord_eq (cmd : Word) (isBad : Bool) :
    statusWord cmd isBad = (0x1#32 ||| ((cmd &&& 0xF#32) <<< 4)) ||| (if isBad then 0x2#32 else 0#32) := by
  apply BitVec.eq_of_getLsbD_eq
  intro i hi
  simp only [statusWord, getLsbD_putField, opField]
  cases isBad <;> interval_cases i <;> simp

theorem endCommand_running (s : State) (r : Results) : endCommand s (.running r) = s.endsWith r := by
  simp [endCommand, Flow.results, Flow.isEnded, State.setRes, State.noteTooShort, State.endsWith, statusWord_eq,
    State.endStatus]

theorem endCommand_raiseTooShort (s : State) (r : Results) : endCommand s (raiseTooShort r) = s.endsShort r := by
  simp [endCommand, raiseTooShort, Flow.results, Flow.isEnded, State.setRes, State.noteTooShort, State.endsShort,
    statusWord_eq, State.endStatus, putField_bit_true]

theorem badCommand_eq (s : State) : badCommand s = s.endsBad := by
  simp [badCommand, State.setRes, State.noteBad, State.endsBad, statusWord_eq, State.endStatus]

/-- A command whose capture does not fit the window is bad (R311). -/
theorem runCommand_of_not_fits (s : State) (body : State → Results → Flow) (h : ¬ s.Fits) :
    runCommand s body = s.endsBad := by
  have h1 : Config.maxBuf < s.req.caplen.toNat := by simpa [State.Fits, State.capLen] using h
  rw [runCommand, if_pos h1, badCommand_eq]

/-- A command whose capture fits runs its body on cleared results (R59). -/
theorem runCommand_of_fits (s : State) (body : State → Results → Flow) (h : s.Fits) :
    runCommand s body = endCommand s (body s Results.zero) := by
  have h1 : ¬ Config.maxBuf < s.req.caplen.toNat := by simpa [State.Fits, State.capLen] using h
  rw [runCommand, if_neg h1]

/-- The body of each command. -/
def bodyOf : Instr → State → Results → Flow
  | .hecCheck => hecCheckBody
  | .hdrParse ref hecp => fun s r => parseHeader s ref hecp r
  | .oamClassify => oamClassifyBody
  | .aal5Trailer aal => aal5TrailerBody aal
  | .cellCount => cellCountBody
  | .dispatch noph hintv aal => dispatchBody noph hintv aal
  | .processCell ref hecp noph hintv aal => processCellBody ref hecp noph hintv aal
  | .processPdu noph hintv aal => processPduBody noph hintv aal

/-- Every command is its body, run as a command. -/
theorem exec_eq_runCommand (i : Instr) (s : State) : exec i s = .next (runCommand s (bodyOf i)) := by
  cases i <;> rfl

/-- The next state of a command is that of its body. -/
theorem eq_of_exec (i : Instr) (s t : State) (h : exec i s = .next t) : t = runCommand s (bodyOf i) := by
  rw [exec_eq_runCommand] at h
  injection h with h
  exact h.symm

/-- A flow that ends does so by raising `TooShort` (R312). -/
def Flow.Proper (f : Flow) : Prop := ∀ r, f = .ended r → ∃ r0, f = raiseTooShort r0

theorem proper_running (r : Results) : (Flow.running r).Proper := by
  intro r' h; cases h

theorem proper_raiseTooShort (r : Results) : (raiseTooShort r).Proper := fun _ _ => ⟨r, rfl⟩

theorem proper_andThen (f : Flow) (g : Results → Flow) (hf : f.Proper) (hg : ∀ r, (g r).Proper) :
    (f.andThen g).Proper := by
  cases f with
  | running r => exact hg r
  | ended r => exact hf

/-- Whatever its body, a command is bad, ends normally, or ends too short; the rest of the machine stays. -/
theorem sameOutsideResults_runCommand (s : State) (body : State → Results → Flow) :
    s.SameOutsideResults (runCommand s body) := by
  by_cases h : s.Fits
  · rw [runCommand_of_fits s body h]
    exact ⟨rfl, fun _ => rfl, rfl, rfl, rfl, rfl⟩
  · rw [runCommand_of_not_fits s body h]
    exact ⟨rfl, fun _ => rfl, rfl, rfl, rfl, rfl⟩

end Sys2Proof.Machine
end

