-- ==== Sys2Proof/Laws/Memory.lean ====
section
/-! SUPPORT. The data window: reading after writing, and the canonical form that every write keeps
(spec/20_memory.md R77). -/

namespace Sys2Proof.Machine

/-- Reading after a write: the byte written at its index, the byte of before elsewhere. -/
theorem read?_write (m : Memory) (i : Nat) (b : Byte) (a : Nat) :
    (m.write i b).read? a = if a = i then some b else m.read? a := by
  induction m with
  | nil => simp [Memory.write, Memory.read?]
  | cons c m ih =>
    obtain ⟨k, v⟩ := c
    simp only [Memory.write]
    by_cases h1 : i < k
    · simp only [if_pos h1, Memory.read?]
    · by_cases h2 : i = k
      · subst h2
        simp only [if_neg h1, if_true, Memory.read?]
        split_ifs <;> rfl
      · simp only [if_neg h1, if_neg h2, Memory.read?, ih]
        by_cases h3 : a = k
        · simp [h3, Ne.symm h2]
        · simp [h3]

/-- A byte of `DATA` after a host write. -/
theorem dataByte_writeByte (s : State) (i : Nat) (b : Byte) (a : Nat) :
    (s.writeByte i b).dataByte a = if a = i then b else s.dataByte a := by
  simp only [State.dataByte, State.writeByte, read?_write, State.unwrittenByte]
  split_ifs <;> rfl

/-- A host read inside the window returns the byte of `DATA` (R77). -/
theorem hostByte_of_lt (s : State) (i : Nat) (h : i < Config.maxBuf) : s.hostByte i = s.dataByte i := by
  rw [State.hostByte, if_pos h]

/-- A host read outside the window returns a free value (spec/93 U4; log 9). -/
theorem hostByte_of_le (s : State) (i : Nat) (h : Config.maxBuf ≤ i) :
    s.hostByte i = Config.absentByte s.returned.length i := by
  rw [State.hostByte, if_neg (Nat.not_lt.mpr h)]

/-- The canonical form of a window with a first entry: the entry lies below the next one, and the rest is canonical. -/
theorem wf_cons (a : Nat) (c : Byte) (m : Memory) :
    Memory.wf ((a, c) :: m) = true ↔ (∀ p ∈ m.head?, a < p.1) ∧ Memory.wf m = true := by
  cases m with
  | nil => simp [Memory.wf]
  | cons p m => obtain ⟨k, v⟩ := p; simp [Memory.wf]

/-- The first index of a window after a write is the written index or the first of before. -/
theorem head?_write (m : Memory) (i : Nat) (b : Byte) :
    ∀ p ∈ (m.write i b).head?, p.1 = i ∨ ∃ q ∈ m.head?, p.1 = q.1 := by
  cases m with
  | nil => simp [Memory.write]
  | cons c m =>
    obtain ⟨k, v⟩ := c
    simp only [Memory.write]
    split_ifs with h1 h2 <;> simp_all

/-- A write keeps the canonical form. -/
theorem wf_write (m : Memory) (i : Nat) (b : Byte) (h : m.wf = true) : (m.write i b).wf = true := by
  induction m with
  | nil => rfl
  | cons c m ih =>
    obtain ⟨k, v⟩ := c
    obtain ⟨hk, hm⟩ := (wf_cons k v m).mp h
    simp only [Memory.write]
    split_ifs with h1 h2
    · simpa [Memory.wf, h1] using h
    · subst h2
      exact (wf_cons _ _ _).mpr ⟨hk, hm⟩
    · refine (wf_cons _ _ _).mpr ⟨fun p hp => ?_, ih hm⟩
      rcases head?_write m i b p hp with h3 | ⟨q, hq, h3⟩
      · omega
      · rw [h3]; exact hk q hq

/-- A write inside the window keeps every listed index inside it. -/
theorem inWindow_write (m : Memory) (i : Nat) (b : Byte) (hi : i < Config.maxBuf) (h : m.inWindow = true) :
    (m.write i b).inWindow = true := by
  induction m with
  | nil => simp [Memory.write, Memory.inWindow, hi]
  | cons c m ih =>
    obtain ⟨k, v⟩ := c
    simp only [Memory.inWindow, List.all_cons, Bool.and_eq_true, decide_eq_true_eq] at h ih ⊢
    simp only [Memory.write]
    split_ifs with h1 h2 <;> simp only [List.all_cons, Bool.and_eq_true, decide_eq_true_eq]
    · exact ⟨hi, h.1, h.2⟩
    · exact ⟨hi, h.2⟩
    · exact ⟨h.1, ih h.2⟩

/-- Reset memory is canonical and inside the window. -/
theorem reset_data_wf : State.reset.data.wf = true ∧ State.reset.data.inWindow = true := by
  constructor <;> rfl

/-- The bytes of a slice depend on the bytes of `DATA` in it alone. -/
theorem dataSlice_congr (s t : State) (off off' len : Nat)
    (h : ∀ k, k < len → s.dataByte (off + k) = t.dataByte (off' + k)) : s.dataSlice off len = t.dataSlice off' len := by
  simp only [State.dataSlice, List.map_inj_left, List.mem_range]
  exact h

@[simp] theorem length_dataSlice (s : State) (off len : Nat) : (s.dataSlice off len).length = len := by
  simp [State.dataSlice]

end Sys2Proof.Machine
end

