-- ==== Sys2Proof/Laws/Aal5.lean ====
section
/-! SUPPORT. The trailer's guards, the words it writes, and what the trailer function reads (spec/42_aal5.md R201 to
R208). -/

namespace Sys2Proof.Machine

/-- `be16` is the big-endian number of its two bytes (R10). -/
theorem toNat_be16 (s : State) (i : Nat) :
    (s.be16 i).toNat = 256 * (s.dataByte i).toNat + (s.dataByte (i + 1)).toNat := by
  rw [State.be16, toNat_append_bytes]

/-- The trailer's length is its two bytes, big-endian, where it is used (R201). -/
theorem trailerLength_eq (s : State) (h : 6 ≤ s.capLen) : s.trailerLength = s.lengthField := by
  have h1 : s.capLen - 6 + 1 = s.capLen - 5 := by omega
  rw [State.trailerLength, toNat_be16, State.lengthField, h1]

/-- The trailer is present exactly when the five guards hold (R201). -/
theorem trailerPresent_iff (s : State) (aal : AalKind) : trailerPresent s aal = true ↔ TrailerGuards s aal := by
  by_cases h8 : 8 ≤ s.capLen
  · have h8' : Config.trailerBytes ≤ s.capLen := h8
    have hl := trailerLength_eq s (by omega)
    simp only [trailerPresent, carriesTrailer, Bool.and_eq_true, Bool.or_eq_true, decide_eq_true_eq, State.trailerPad,
      h8', hl, decide_true, and_true]
    simp only [Config.trailerBytes, Config.maxPad]
    constructor
    · rintro ⟨⟨⟨⟨h1, h2⟩, h4⟩, h5⟩, h6⟩
      exact ⟨h1, h2, h8, ⟨h4, by omega⟩, by omega⟩
    · rintro ⟨h1, h2, _, ⟨h4, h5⟩, h6⟩
      exact ⟨⟨⟨⟨h1, h2⟩, h4⟩, by omega⟩, by omega⟩
  · constructor
    · intro h
      simp only [trailerPresent, Bool.and_eq_true, decide_eq_true_eq] at h
      exact absurd h.1.1.1.2 h8
    · intro h
      exact absurd h.g3 h8

/-- Without a trailer no result is written (R208). -/
theorem aal5Results_of_absent (s : State) (aal : AalKind) (r : Results) (h : ¬ TrailerGuards s aal) :
    aal5Results s aal r = r := by
  rw [aal5Results, if_neg (mt (trailerPresent_iff s aal).mp h)]

/-- Without a trailer the captured bytes are handed on (R208). -/
theorem aal5Window_of_absent (s : State) (aal : AalKind) (h : ¬ TrailerGuards s aal) :
    aal5Window s aal = s.wholeWindow := by
  rw [aal5Window, if_neg (mt (trailerPresent_iff s aal).mp h)]

/-- With a trailer the content is handed on (R205). -/
theorem aal5Window_of_present (s : State) (aal : AalKind) (h : TrailerGuards s aal) :
    aal5Window s aal = { off := 0, len := s.lengthField, rep := s.lengthField } := by
  rw [aal5Window, if_pos ((trailerPresent_iff s aal).mpr h), trailerLength_eq s (by have := h.g3; omega)]

/-- `RES_TRL0` on cleared results (R44, R202). -/
theorem trl0_eq (u c : Byte) (l : BitVec 16) :
    putField (putField (putField 0 0 u) 8 c) 16 l =
      u.setWidth 32 ||| (c.setWidth 32 <<< 8) ||| (BitVec.ofNat 32 l.toNat <<< 16) := by
  have hl : BitVec.ofNat 32 l.toNat = l.setWidth 32 := by
    apply BitVec.eq_of_toNat_eq
    simp
  rw [hl]
  apply BitVec.eq_of_getLsbD_eq
  intro i hi
  simp only [getLsbD_putField]
  interval_cases i <;> simp

/-- `be32` is the big-endian word of its four bytes (R10). -/
theorem be32_eq (s : State) (i : Nat) :
    s.be32 i = ((s.dataByte i).setWidth 32 <<< 24) ||| ((s.dataByte (i + 1)).setWidth 32 <<< 16) |||
      ((s.dataByte (i + 2)).setWidth 32 <<< 8) ||| (s.dataByte (i + 3)).setWidth 32 := by
  simp only [State.be32]
  generalize s.dataByte i = a
  generalize s.dataByte (i + 1) = b
  generalize s.dataByte (i + 2) = c
  generalize s.dataByte (i + 3) = d
  apply BitVec.eq_of_getLsbD_eq
  intro k hk
  simp only [BitVec.getLsbD_append, BitVec.getLsbD_or, BitVec.getLsbD_shiftLeft, BitVec.getLsbD_setWidth]
  interval_cases k <;> simp

/-- `RES_AAL5ST` after the trailer is written over the cell count's flag (R46, R202, R204, R206). -/
theorem aal5st_eq (cells ok : Bool) (pad : Nat) (h : pad < 256) :
    putField (putField (putField (if cells then 4#32 else 0#32) 0 (bit true)) 8 (BitVec.ofNat 8 pad)) 1 (bit ok) =
      (1#32 ||| (if ok then 2#32 else 0#32) ||| (BitVec.ofNat 32 pad <<< 8)) ||| (if cells then 4#32 else 0#32) := by
  have hp : BitVec.ofNat 32 pad = (BitVec.ofNat 8 pad).setWidth 32 := by
    apply BitVec.eq_of_toNat_eq
    simp only [BitVec.toNat_ofNat, BitVec.toNat_setWidth]
    omega
  rw [hp]
  generalize BitVec.ofNat 8 pad = q
  apply BitVec.eq_of_getLsbD_eq
  intro i hi
  simp only [getLsbD_putField]
  cases cells <;> cases ok <;> interval_cases i <;> simp

/-- The cell count on cleared results (R206). -/
theorem cellCount_zero (s : State) :
    cellCount s Results.zero =
      if s.repLen % 48 = 0 then { Results.zero with cells := BitVec.ofNat 32 (s.repLen / 48), aal5st := 4 }
      else Results.zero := by
  simp only [cellCount, Config.cellPayloadBytes]
  by_cases h : s.repLen % 48 = 0
  · rw [if_pos h, if_pos h]
    congr 1
  · rw [if_neg h, if_neg h]

/-- The results of the trailer function when the trailer is present, over results that hold at most a cell count
(R202, R204). -/
theorem aal5Results_of_present (s : State) (aal : AalKind) (cells : Bool) (n : Word) (h : TrailerGuards s aal) :
    aal5Results s aal { Results.zero with cells := n, aal5st := if cells then 4#32 else 0#32 } =
      { Results.zero with
        cells := n
        trl0 := (s.dataByte (s.capLen - 8)).setWidth 32 ||| ((s.dataByte (s.capLen - 7)).setWidth 32 <<< 8) |||
          (BitVec.ofNat 32 s.lengthField <<< 16)
        trl1 := s.be32 (s.capLen - 4)
        crcreg := s.pduCrc
        aal5st := (1#32 ||| (if s.pduCrc = 0xC704DD7B#32 then 2#32 else 0#32) |||
          (BitVec.ofNat 32 (s.capLen - s.lengthField - 8) <<< 8)) ||| (if cells then 4#32 else 0#32)
        diag := if s.pduCrc = 0xC704DD7B#32 then 0 else 8 } := by
  have hl := trailerLength_eq s (by have := h.g3; omega)
  have hb : (s.be16 (s.capLen - 6)).toNat = s.lengthField := hl
  have hp : s.capLen - s.lengthField - 8 < 256 := by have := h.g5; omega
  have ha := aal5st_eq cells (s.pduCrc == Config.crcResidue) _ hp
  rw [aal5Results, if_pos ((trailerPresent_iff s aal).mpr h)]
  simp only [writeTrailer, writeCrc, State.trailerPad, Config.trailerBytes, hl, Results.zero_trl0, trl0_eq, hb, ha]
  by_cases hc : s.pduCrc = Config.crcResidue
  · have hc' : s.pduCrc = 0xC704DD7B#32 := hc
    rw [if_pos hc, if_pos hc', if_pos hc']
    simp [hc', Results.zero]
  · have hc' : ¬ s.pduCrc = 0xC704DD7B#32 := hc
    rw [if_neg hc, if_neg hc', if_neg hc']
    simp [hc', Results.zero, raiseDiag, Diag.bitIndex, putField_bit_true]

end Sys2Proof.Machine
end

