-- ==== Sys2Proof/Laws/Decode.lean ====
section
/-! SUPPORT. What decoding a command word gives (spec/30_encoding.md R110, R111, R119). -/

namespace Sys2Proof

/-- A word with a reserved bit set is bad (R111). -/
theorem decodeWord_of_reservedBits (w : Word) (h : reservedField w ≠ 0#21) : decodeWord w = .bad .reservedBits := by
  rw [decodeWord, if_neg h]

/-- A word with a reserved operation code is bad (R110). -/
theorem decodeWord_of_reservedOp (w : Word) (h : reservedField w = 0#21)
    (ho : (opField w).toNat = 0 ∨ 9 ≤ (opField w).toNat) : decodeWord w = .bad .reservedOp := by
  rw [decodeWord, if_pos h]
  split <;> first | rfl | omega

/-- A word with a reserved bit set or a reserved operation code decodes to no command. -/
theorem decodeWord_of_bad (w : Word)
    (h : reservedField w ≠ 0#21 ∨ (opField w).toNat = 0 ∨ 9 ≤ (opField w).toNat) : ∃ b, decodeWord w = .bad b := by
  by_cases hr : reservedField w = 0#21
  · exact ⟨_, decodeWord_of_reservedOp w hr (h.resolve_left (absurd hr))⟩
  · exact ⟨_, decodeWord_of_reservedBits w hr⟩

/-- The operation of the command that a word decodes to is the word's `OP` (R109). -/
theorem op_of_decodeWord (w : Word) (i : Instr) (h : decodeWord w = .instr i) : opField w = i.op.code := by
  have hr : reservedField w = 0#21 := by
    by_contra hr
    rw [decodeWord_of_reservedBits w hr] at h
    cases h
  rw [decodeWord, if_pos hr] at h
  apply BitVec.eq_of_toNat_eq
  split at h <;> first | (injection h with h; subst h; assumption) | cases h

end Sys2Proof
end

