-- ==== Sys2Proof/Laws/Header.lean ====
section
/-! SUPPORT. The header as a number and as bytes, the words a parse and a HEC check write (spec/30_encoding.md R100,
R101, spec/40_hec.md R140, spec/41_header.md R171, R174). -/

namespace Sys2Proof.Machine

/-- The bytes of the header as a number are the bytes of `DATA`. -/
theorem hecCheckNumber_headerNumber (s : State) : hecCheckNumber s.headerNumber = s.hecOfData := by
  simp only [State.hecOfData, hecCheckNumber, State.headerNumber]
  congr 1 <;>
    · apply BitVec.eq_of_getLsbD_eq
      intro i hi
      simp only [BitVec.getLsbD_extractLsb', BitVec.getLsbD_append]
      interval_cases i <;> simp

/-- `RES_HEC` after a check on cleared results, and the diagnostic of its result (R42, R140). -/
theorem hec_writeHec_clear (c : HecResult × Byte) (r : Results) (h : r.hec = 0) (hd : r.diag = 0) :
    writeHec c r = { r with hec := hecWord c.1 c.2, diag := hecDiag c.1 } := by
  obtain ⟨c, y⟩ := c
  have hw : putField (putField (putField r.hec 16 y) 0 c.code) 8 c.posField = hecWord c y := by
    rw [h]
    rcases c with _ | p | _
    · apply BitVec.eq_of_getLsbD_eq
      intro i hi
      simp only [getLsbD_putField, hecWord, HecResult.code, HecResult.posField]
      interval_cases i <;> simp
    · have hp : BitVec.ofNat 32 p.val = (BitVec.ofNat 6 p.val).setWidth 32 := by
        apply BitVec.eq_of_toNat_eq
        simp only [BitVec.toNat_ofNat, BitVec.toNat_setWidth]
        omega
      apply BitVec.eq_of_getLsbD_eq
      intro i hi
      simp only [getLsbD_putField, hecWord, HecResult.code, HecResult.posField, hp]
      generalize BitVec.ofNat 6 p.val = q
      interval_cases i <;> simp
    · apply BitVec.eq_of_getLsbD_eq
      intro i hi
      simp only [getLsbD_putField, hecWord, HecResult.code, HecResult.posField]
      interval_cases i <;> simp
  simp only [writeHec, hw]
  cases c <;> simp [HecResult.report, hecDiag, raiseDiag, hd, Diag.bitIndex, putField_bit_true]

/-- `RES_HDR0` as R171 writes it is the field list of R40 over the header number. -/
theorem hdr0Word_eq (s : State) (ref : RefPoint) :
    hdr0Word ref (s.dataByte 1) (s.dataByte 2) (s.dataByte 3) = hdr0Of ref s.headerNumber := by
  simp only [State.headerNumber]
  generalize s.dataByte 0 = b0
  generalize s.dataByte 1 = b1
  generalize s.dataByte 2 = b2
  generalize s.dataByte 3 = b3
  generalize s.dataByte 4 = b4
  apply BitVec.eq_of_getLsbD_eq
  intro i hi
  cases ref <;>
  · simp only [hdr0Word, hdr0Of, getLsbD_putField, headerVci, headerPti, headerClp, byteField, BitVec.getLsbD_or,
      BitVec.getLsbD_shiftLeft, BitVec.getLsbD_setWidth, BitVec.getLsbD_extractLsb', BitVec.getLsbD_append]
    interval_cases i <;> simp

/-- `RES_HDR1` as R171 writes it is the field list of R41 over the header number. -/
theorem hdr1Word_eq (s : State) (ref : RefPoint) :
    hdr1Word ref (s.dataByte 0) (s.dataByte 1) = hdr1Of ref s.headerNumber := by
  simp only [State.headerNumber]
  generalize s.dataByte 0 = b0
  generalize s.dataByte 1 = b1
  generalize s.dataByte 2 = b2
  generalize s.dataByte 3 = b3
  generalize s.dataByte 4 = b4
  apply BitVec.eq_of_getLsbD_eq
  intro i hi
  cases ref <;>
  · simp only [hdr1Word, hdr1Of, getLsbD_putField, headerVpi, headerGfc, byteField, BitVec.getLsbD_or,
      BitVec.getLsbD_shiftLeft, BitVec.getLsbD_setWidth, BitVec.getLsbD_extractLsb', BitVec.getLsbD_append]
    interval_cases i <;> simp

/-- The HEC byte and its flag beside the header fields (R174). -/
theorem hdr1_writeHecByte_eq (s : State) (ref : RefPoint) :
    putField (putField (hdr1Of ref s.headerNumber) 16 (s.dataByte 4)) 24 (bit true) =
      hdr1Of ref s.headerNumber ||| hdr1HecOf s.headerNumber := by
  simp only [State.headerNumber]
  generalize s.dataByte 0 = b0
  generalize s.dataByte 1 = b1
  generalize s.dataByte 2 = b2
  generalize s.dataByte 3 = b3
  generalize s.dataByte 4 = b4
  apply BitVec.eq_of_getLsbD_eq
  intro i hi
  cases ref <;>
  · simp only [hdr1HecOf, hdr1Of, getLsbD_putField, BitVec.getLsbD_or,
      BitVec.getLsbD_shiftLeft, BitVec.getLsbD_setWidth, BitVec.getLsbD_extractLsb', BitVec.getLsbD_append]
    interval_cases i <;> simp

/-- A parse of a captured header on cleared results (R171, R174). -/
theorem parseHeader_of_captured (s : State) (ref : RefPoint) (hecp : Bool) (h : 4 + hecp.toNat ≤ s.capLen) :
    parseHeader s ref hecp Results.zero = .running (parsedResults ref hecp s.headerNumber) := by
  have h1 : ¬ s.capLen < headerLen hecp := by simpa [headerLen] using h
  rw [parseHeader, if_neg h1]
  cases hecp
  · simp only [Bool.false_eq_true, if_false, parsedResults, writeHeader, hdr0Word_eq, hdr1Word_eq]
  · simp only [if_true, parsedResults]
    rw [hec_writeHec_clear _ _ rfl rfl, hecCheckNumber_headerNumber]
    simp only [writeHecByte, writeHeader, hdr0Word_eq, hdr1Word_eq, hdr1_writeHecByte_eq]

/-- A parse of a header that is not captured (R172). -/
theorem parseHeader_of_short (s : State) (ref : RefPoint) (hecp : Bool) (r : Results)
    (h : s.capLen < 4 + hecp.toNat) : parseHeader s ref hecp r = raiseTooShort r := by
  have h1 : s.capLen < headerLen hecp := by simpa [headerLen] using h
  rw [parseHeader, if_pos h1]

/-- The VCI of a parse is bits 27:12 of the header number, whatever the HEC check says (R100, R101, R175). -/
theorem vci_parsedResults (ref : RefPoint) (hecp : Bool) (h : BitVec 40) :
    (parsedResults ref hecp h).vci = h.extractLsb' 12 16 := by
  apply BitVec.eq_of_getLsbD_eq
  intro i hi
  cases hecp <;> cases ref <;>
  · simp only [parsedResults, Results.vci, getField, hdr0Of, Bool.false_eq_true, if_true, if_false, BitVec.getLsbD_or,
      BitVec.getLsbD_shiftLeft, BitVec.getLsbD_setWidth, BitVec.getLsbD_extractLsb']
    interval_cases i <;> simp

/-- The PTI of a parse is bits 11:9 of the header number (R100, R101, R175). -/
theorem pti_parsedResults (ref : RefPoint) (hecp : Bool) (h : BitVec 40) :
    (parsedResults ref hecp h).pti = h.extractLsb' 9 3 := by
  apply BitVec.eq_of_getLsbD_eq
  intro i hi
  cases hecp <;> cases ref <;>
  · simp only [parsedResults, Results.pti, getField, hdr0Of, Bool.false_eq_true, if_true, if_false, BitVec.getLsbD_or,
      BitVec.getLsbD_shiftLeft, BitVec.getLsbD_setWidth, BitVec.getLsbD_extractLsb']
    interval_cases i <;> simp

/-- `IsOam` is its truth table (R181, R182). -/
theorem isOam_eq_oamTable (vci : BitVec 16) (pti : BitVec 3) : isOam vci pti = oamTable vci pti := by
  have h : ∀ p : BitVec 3, isOam vci p = oamTable vci p := by
    intro p
    have hp : p = 0 ∨ p = 1 ∨ p = 2 ∨ p = 3 ∨ p = 4 ∨ p = 5 ∨ p = 6 ∨ p = 7 := by
      revert p; decide
    rcases hp with rfl | rfl | rfl | rfl | rfl | rfl | rfl | rfl <;> simp [isOam, oamTable]
  exact h pti

end Sys2Proof.Machine
end

