-- ==== Sys2Proof/Laws/Hec.lean ====
section
/-! SUPPORT. The HEC tables and the linearity of the syndrome (spec/40_hec.md R141, R147, R148). -/

namespace Sys2Proof.Machine

/-- The xor of two pairs, regrouped. -/
theorem xor_xor_xor_comm {w : Nat} (a b c d : BitVec w) : (a ^^^ b) ^^^ (c ^^^ d) = (a ^^^ c) ^^^ (b ^^^ d) := by
  rw [BitVec.xor_assoc, ← BitVec.xor_assoc b, BitVec.xor_comm b c, BitVec.xor_assoc c, ← BitVec.xor_assoc a]

/-- One step of the syndrome table is linear. -/
theorem syndStep_xor (x y : Byte) : syndStep (x ^^^ y) = syndStep x ^^^ syndStep y := by
  simp only [syndStep, BitVec.getLsbD_xor, BitVec.shiftLeft_xor_distrib]
  generalize Config.hecPoly = g
  cases x.getLsbD 7 <;> cases y.getLsbD 7 <;> simp only [Bool.xor_false, Bool.xor_true, Bool.not_false,
    Bool.not_true, Bool.false_eq_true, if_true, if_false]
  · rw [BitVec.xor_assoc]
  · rw [BitVec.xor_assoc, BitVec.xor_assoc, BitVec.xor_comm _ g]
  · rw [xor_xor_xor_comm, BitVec.xor_self, BitVec.xor_zero]

/-- The syndrome table is linear (R147). -/
theorem synd_xor (x y : Byte) : synd (x ^^^ y) = synd x ^^^ synd y := by
  have h : ∀ n (x y : Byte), syndStep^[n] (x ^^^ y) = syndStep^[n] x ^^^ syndStep^[n] y := by
    intro n
    induction n with
    | zero => intro x y; rfl
    | succ n ih => intro x y; rw [Function.iterate_succ_apply, syndStep_xor, ih]; rfl
  exact h 8 x y

/-- The fold of the first four bytes is linear (R141). -/
theorem hecFold_xor (a b c d a' b' c' d' : Byte) :
    hecFold (a ^^^ a') (b ^^^ b') (c ^^^ c') (d ^^^ d') = hecFold a b c d ^^^ hecFold a' b' c' d' := by
  simp only [hecFold, synd_xor, xor_xor_xor_comm]

/-- The syndrome of a header given as a number. -/
def syndromeNumber (h : BitVec 40) : Byte :=
  syndrome (h.extractLsb' 32 8) (h.extractLsb' 24 8) (h.extractLsb' 16 8) (h.extractLsb' 8 8) (h.extractLsb' 0 8)

/-- What an error pattern adds to the syndrome. -/
def errorSyndrome (e : BitVec 40) : Byte :=
  hecFold (e.extractLsb' 32 8) (e.extractLsb' 24 8) (e.extractLsb' 16 8) (e.extractLsb' 8 8) ^^^ e.extractLsb' 0 8

theorem hecCheckNumber_eq (h : BitVec 40) : hecCheckNumber h = (classify (epos (syndromeNumber h)), syndromeNumber h) :=
  rfl

theorem extractLsb'_xor (x y : BitVec 40) (lo w : Nat) :
    (x ^^^ y).extractLsb' lo w = x.extractLsb' lo w ^^^ y.extractLsb' lo w := by
  apply BitVec.eq_of_getLsbD_eq
  intro i hi
  simp only [BitVec.getLsbD_extractLsb', BitVec.getLsbD_xor, hi, decide_true, Bool.true_and]

/-- An error pattern adds its own syndrome, whatever the header is. -/
theorem syndromeNumber_xor (h e : BitVec 40) : syndromeNumber (h ^^^ e) = syndromeNumber h ^^^ errorSyndrome e := by
  simp only [syndromeNumber, syndrome, errorSyndrome, extractLsb'_xor, hecFold_xor]
  generalize hecFold _ _ _ _ = a
  generalize hecFold _ _ _ _ = b
  rw [xor_xor_xor_comm a b, BitVec.xor_assoc, BitVec.xor_comm (b ^^^ _), ← BitVec.xor_assoc]

/-- The syndrome of a single inverted bit is `x^(39-p) mod g(x)` (R148). -/
theorem errorSyndrome_position : ∀ p : Fin 40, errorSyndrome ((1 : BitVec 40) <<< (39 - p.val)) = positionSyndrome p := by
  decide +kernel

/-- Inverting the bit of a position adds that position's syndrome (R144, R148). -/
theorem syndromeNumber_flipPosition (h : BitVec 40) (p : Fin 40) :
    syndromeNumber (flipPosition h p) = syndromeNumber h ^^^ positionSyndrome p := by
  rw [flipPosition, syndromeNumber_xor, errorSyndrome_position]

/-- A position's syndrome is found at its position (R148). -/
theorem classify_position : ∀ p : Fin 40, classify (epos (positionSyndrome p)) = .correctablePosition p := by
  decide +kernel

/-- Only the syndrome 0 is "no error" (R148, R149). -/
theorem classify_eq_noError_iff (y : Byte) : classify (epos y) = .noErrorDetected ↔ y = 0 := by
  revert y; decide +kernel

end Sys2Proof.Machine
end

