-- ==== Sys2Proof/Laws/Payload.lean ====
section
/-! SUPPORT. The sniff is the ordered pattern list of R106, and everything that `Dispatch` can do
(spec/43_dispatch.md R241 to R256). -/

namespace Sys2Proof.Machine

/-- The bridged-Ethernet and PPP tests on the first two bytes, byte by byte (R106). -/
theorem ppp_test (b0 b1 : Byte) : ((b0 ++ b1) &&& 0x00FF#16 == Config.pppIpProto) = (b1 == 0x21) := by
  have h : (b0 ++ b1) &&& 0x00FF#16 = b1.setWidth 16 := by
    apply BitVec.eq_of_getLsbD_eq
    intro i hi
    simp only [BitVec.getLsbD_and, BitVec.getLsbD_append, BitVec.getLsbD_setWidth]
    interval_cases i <;> simp
  have h1 : ∀ b : Byte, (b.setWidth 16 == Config.pppIpProto) = (b == 0x21) := by decide +kernel
  rw [h, h1]

theorem eth_test (b0 b1 : Byte) : (b0 ++ b1 == 0x0000#16) = (b0 == 0x00 && b1 == 0x00) := by
  have h : b0 ++ b1 = 0x0000#16 ↔ b0 = 0x00#8 ∧ b1 = 0x00#8 := by
    constructor
    · intro h
      have h1 := congrArg BitVec.toNat h
      rw [toNat_append_bytes] at h1
      simp only [BitVec.toNat_ofNat] at h1
      constructor <;> (apply BitVec.eq_of_toNat_eq; simp only [BitVec.toNat_ofNat]; omega)
    · rintro ⟨rfl, rfl⟩
      rfl
  rw [Bool.eq_iff_iff]
  simpa using h

/-- The IP test on the first byte's upper nibble (R106). -/
theorem ip_test : ∀ b0 : Byte, (b0.extractLsb' 4 4 == 0x4#4 || b0.extractLsb' 4 4 == 0x6#4) =
    (b0.toNat / 16 == 4 || b0.toNat / 16 == 6) := by
  decide +kernel

/-- The sniff decides the first pattern of R106 that matches (R244 to R251). -/
theorem sniffAt_code (s : State) (off : Nat) : (s.sniffAt off).code = s.sniffCode off := by
  simp only [State.sniffAt, State.sniffCode, sniffPatterns, firstMatch, sniffRoute, ppp_test, eth_test, ip_test, frNlpid,
    Nat.add_zero]
  split_ifs <;> rfl

/-- The upper nibble as a word (R249). -/
theorem upperNibble_word : ∀ b : Byte, (b.extractLsb' 4 4).setWidth 32 = BitVec.ofNat 32 (b.toNat / 16) := by
  decide +kernel

/-- The words that `RES_ROUTE` can hold after a dispatch (R118, R256). -/
def routeWords : List Word := [0x1, 0x12, 0x3, 0x4, 0x5, 0x6, 0x7, 0x408, 0x608, 0x19, 0xA]

/-- The results after a dispatch over results that hold no route: one route word, a key only for a table route, and
a window. -/
structure Emitted (r : Results) (w : Window) (f : Flow) : Prop where
  witness : ∃ (word key : Word) (w' : Window),
    f = .running ({ r with route := word, key := key }.setWindow w') ∧ word ∈ routeWords ∧
      (word ≠ 0x12 → word ≠ 0x19 → key = 0) ∧ w.off ≤ w'.off ∧ w'.off + w'.len ≤ w.off + w.len ∧ w'.rep ≤ w.rep

theorem emitted_emit (route : Route) (w w' : Window) (r : Results) (hr : r.route = 0) (hk : r.key = 0)
    (hroute : route.code.setWidth 32 ∈ routeWords) (h1 : w.off ≤ w'.off) (h2 : w'.off + w'.len ≤ w.off + w.len)
    (h3 : w'.rep ≤ w.rep) : Emitted r w (emit route w' r) := by
  refine ⟨_, 0, w', ?_, hroute, fun _ _ => rfl, h1, h2, h3⟩
  simp only [emit, hr, hk, putField_zero, BitVec.shiftLeft_zero]

theorem table_word (route : Route) (h : route = .table5 ∨ route = .table2) :
    putField (putField 0 4 (bit true)) 0 route.code = if route = .table5 then 0x12#32 else 0x19#32 := by
  rcases h with rfl | rfl <;> decide

theorem emitted_emitTable (route : Route) (key : Word) (w w' : Window) (r : Results) (hr : r.route = 0)
    (hroute : route = .table5 ∨ route = .table2) (h1 : w.off ≤ w'.off) (h2 : w'.off + w'.len ≤ w.off + w.len)
    (h3 : w'.rep ≤ w.rep) : Emitted r w (emitTable route key w' r) := by
  refine ⟨if route = .table5 then 0x12#32 else 0x19#32, key, w', ?_, ?_, ?_, h1, h2, h3⟩
  · simp only [emitTable, emit, hr, table_word route hroute, Results.setWindow]
  · rcases hroute with rfl | rfl <;> decide
  · rcases hroute with rfl | rfl <;> simp

/-- The IP route shows the version of its first byte (R249). -/
theorem ip_word (b : Byte) (h : b.toNat / 16 = 4 ∨ b.toNat / 16 = 6) :
    putField (putField 0 8 (b.extractLsb' 4 4)) 0 Route.ip.code ∈ routeWords := by
  have h' : ∀ n : BitVec 4, n = 4 ∨ n = 6 → putField (putField 0 8 n) 0 Route.ip.code ∈ routeWords := by
    rintro n (rfl | rfl) <;> decide
  apply h'
  revert b; decide +kernel

theorem sniffAt_ip (s : State) (off : Nat) (h : s.sniffAt off = .ip) :
    (s.dataByte off).toNat / 16 = 4 ∨ (s.dataByte off).toNat / 16 = 6 := by
  simp only [State.sniffAt, sniffRoute, ip_test] at h
  split_ifs at h with h1 h2 h3 h4 h5 h6
  simpa using h6

/-- The sniff never decides a table route or no route (R256). -/
theorem sniffAt_ne (s : State) (off : Nat) :
    s.sniffAt off ≠ .none ∧ s.sniffAt off ≠ .table5 ∧ s.sniffAt off ≠ .table2 := by
  unfold State.sniffAt sniffRoute
  refine ⟨?_, ?_, ?_⟩ <;> split_ifs <;> simp

theorem emitted_sniff (s : State) (w : Window) (r : Results) (hr : r.route = 0) (hk : r.key = 0)
    (hlen : 2 ≤ w.len) : Emitted r w (sniff s w r) := by
  have hs : sniff s w r = match s.sniffAt w.off with
      | .ethBridged => emit .ethBridged (w.strip Config.ethPadBytes) r
      | .ip => emit .ip w { r with route := putField r.route 8 ((s.dataByte w.off).extractLsb' 4 4) }
      | route => emit route w r := rfl
  rw [hs]
  cases h : s.sniffAt w.off with
  | ethBridged =>
    refine emitted_emit _ _ _ _ hr hk (by decide) ?_ ?_ ?_ <;> simp only [Window.strip, Config.ethPadBytes] <;> omega
  | ip =>
    refine ⟨_, 0, w, ?_, ip_word _ (sniffAt_ip s w.off h), fun _ _ => rfl, le_refl _, le_refl _, le_refl _⟩
    simp [emit, hr, hk, Results.setWindow]
  | none => exact absurd h (sniffAt_ne s w.off).1
  | table5 => exact absurd h (sniffAt_ne s w.off).2.1
  | table2 => exact absurd h (sniffAt_ne s w.off).2.2
  | _ => exact emitted_emit _ _ _ _ hr hk (by decide) (le_refl _) (le_refl _) (le_refl _)

/-- Everything that `Dispatch` can do over results without a route: it records the AAL kind, and then an AAL2 payload
shorter than its sub-header is too short, or exactly one route is emitted, with a window inside the given one
(R241, R252, R255, R256). -/
theorem dispatchPayload_cases (s : State) (noph hintv : Bool) (aal : AalKind) (w : Window) (r : Results)
    (hr : r.route = 0) (hk : r.key = 0) :
    ((aal = .aal2 ∧ noph = false ∧ w.len < 4) ∧
      dispatchPayload s noph hintv aal w r = raiseTooShort (writeAale aal r)) ∨
    (¬ (aal = .aal2 ∧ noph = false ∧ w.len < 4) ∧
      Emitted (writeAale aal r) w (dispatchPayload s noph hintv aal w r)) := by
  have hr' : (writeAale aal r).route = 0 := hr
  have hk' : (writeAale aal r).key = 0 := hk
  have raw : Emitted (writeAale aal r) w (emit .raw w (writeAale aal r)) :=
    emitted_emit _ _ _ _ hr' hk' (by decide) (le_refl _) (le_refl _) (le_refl _)
  have table : ∀ w', w.off ≤ w'.off → w'.off + w'.len ≤ w.off + w.len → w'.rep ≤ w.rep →
      Emitted (writeAale aal r) w (dispatchAal2Table s hintv w' (writeAale aal r)) := by
    intro w' h1 h2 h3
    rw [dispatchAal2Table]
    split
    · exact emitted_emitTable _ _ _ _ _ hr' (.inr rfl) h1 h2 h3
    · exact emitted_emit _ _ _ _ hr' hk' (by decide) h1 h2 h3
  cases aal with
  | signallingAal =>
    exact .inr ⟨by simp, emitted_emit _ _ _ _ hr' hk' (by decide) (le_refl _) (le_refl _) (le_refl _)⟩
  | aal5 =>
    refine .inr ⟨by simp, ?_⟩
    show Emitted _ w (dispatchAal5 s hintv w _)
    rw [dispatchAal5]
    split
    · exact emitted_emitTable _ _ _ _ _ hr' (.inl rfl) (le_refl _) (le_refl _) (le_refl _)
    · split
      · next hlen => exact emitted_sniff _ _ _ hr' hk' (by simp only [Config.sniffMinLen] at hlen; omega)
      · exact raw
  | aal2 =>
    have hd : dispatchPayload s noph hintv .aal2 w r = dispatchAal2 s noph hintv w (writeAale .aal2 r) := rfl
    rw [hd]
    unfold dispatchAal2
    cases noph with
    | true =>
      exact .inr ⟨by simp, table w (le_refl _) (le_refl _) (le_refl _)⟩
    | false =>
      by_cases hlen : w.len < 4
      · exact .inl ⟨⟨rfl, rfl, hlen⟩, by simp [hlen]⟩
      · refine .inr ⟨by simp [hlen], ?_⟩
        have hlen' : ¬ w.len < Config.aal2SubhdrBytes := hlen
        rw [if_neg (by simp), if_neg hlen']
        apply table <;> simp only [Window.strip, Config.aal2SubhdrBytes] <;> omega
  | unknown => exact .inr ⟨by simp, raw⟩
  | aal1 => exact .inr ⟨by simp, raw⟩
  | aal34 => exact .inr ⟨by simp, raw⟩
  | userAal => exact .inr ⟨by simp, raw⟩
  | oamCell => exact .inr ⟨by simp, raw⟩

end Sys2Proof.Machine
end

