-- ==== Sys2Proof/Laws/PerInstr.lean ====
section
/-! SUPPORT. The family TableRow: the word of a command lies in its row of spec/opcode_table.json. -/

namespace Sys2Proof.Laws.TableRow

/-- The word of a command has its row's fixed bits (mask 0xFFFFF80F: `OP`, and 31:11 zero), and no bit that the command
ignores. -/
def Statement (i : Instr) : Prop :=
  encode i &&& 0xFFFFF80F = i.op.code.setWidth 32 ∧ encode i &&& ~~~ i.readMask = 0

theorem hecCheck : Statement .hecCheck := by
  unfold Statement; decide

theorem hdrParse (ref : RefPoint) (hecp : Bool) : Statement (.hdrParse ref hecp) := by
  cases ref <;> cases hecp <;> (unfold Statement; decide)

theorem oamClassify : Statement .oamClassify := by
  unfold Statement; decide

theorem aal5Trailer (aal : AalKind) : Statement (.aal5Trailer aal) := by
  cases aal <;> (unfold Statement; decide)

theorem cellCount : Statement .cellCount := by
  unfold Statement; decide

theorem dispatch (noph hintv : Bool) (aal : AalKind) : Statement (.dispatch noph hintv aal) := by
  cases noph <;> cases hintv <;> cases aal <;> (unfold Statement; decide)

theorem processCell (ref : RefPoint) (hecp noph hintv : Bool) (aal : AalKind) :
    Statement (.processCell ref hecp noph hintv aal) := by
  cases ref <;> cases hecp <;> cases noph <;> cases hintv <;> cases aal <;> (unfold Statement; decide)

theorem processPdu (noph hintv : Bool) (aal : AalKind) : Statement (.processPdu noph hintv aal) := by
  cases noph <;> cases hintv <;> cases aal <;> (unfold Statement; decide)

end Sys2Proof.Laws.TableRow
end

