-- ==== Sys2Proof/Laws/Step.lean ====
section
/-! SUPPORT. What one step does, one lemma per kind of event (spec/20_memory.md R77, R78). -/

namespace Sys2Proof.Machine

/-- While nothing reaches the block it stays as it is. -/
theorem step_idle (s : State) (h : s.pending = []) : step s = .next s := by
  simp only [step, nextEvent, h]

/-- A step is the next event. -/
theorem step_event (s : State) (e : Event) (es : List Event) (h : s.pending = e :: es) :
    step s = applyEvent (s.setPending es) e := by
  simp only [step, nextEvent, h]

theorem step_command (s : State) (w : Word) (es : List Event) (h : s.pending = .writeReg 0 w :: es) :
    step s = startCommand (s.setPending es) w := by
  rw [step_event s _ es h, applyEvent, if_pos rfl]

theorem step_store (s : State) (n : RegNum) (v : Word) (es : List Event) (hn : n ≠ 0)
    (h : s.pending = .writeReg n v :: es) : step s = .next ((s.setPending es).storeReg n v) := by
  rw [step_event s _ es h, applyEvent, if_neg hn]

theorem step_readReg (s : State) (n : RegNum) (es : List Event) (h : s.pending = .readReg n :: es) :
    step s = .next ((s.setPending es).giveHost (s.readReg n)) := by
  rw [step_event s _ es h, applyEvent]
  rfl

theorem step_writeData (s : State) (i : Nat) (b : Byte) (es : List Event) (hi : i < Config.maxBuf)
    (h : s.pending = .writeData i b :: es) : step s = .next ((s.setPending es).writeByte i b) := by
  rw [step_event s _ es h, applyEvent, if_pos hi]

/-- A host write outside the window is the one event that stops the machine (log 9). -/
theorem step_writeData_absent (s : State) (i : Nat) (b : Byte) (es : List Event) (hi : Config.maxBuf ≤ i)
    (h : s.pending = .writeData i b :: es) : step s = .fault .noSuchDataByte := by
  rw [step_event s _ es h, applyEvent, if_neg (Nat.not_lt.mpr hi)]

theorem step_readData (s : State) (i : Nat) (es : List Event) (h : s.pending = .readData i :: es) :
    step s = .next ((s.setPending es).giveHost ((s.hostByte i).setWidth 32)) := by
  rw [step_event s _ es h, applyEvent, State.setPending_hostByte]

theorem step_reset (s : State) (es : List Event) (h : s.pending = .reset :: es) :
    step s = .next (s.setPending es).afterReset := by
  rw [step_event s _ es h, applyEvent]

/-- A stored word that decodes to a command runs it. -/
theorem startCommand_instr (s : State) (w : Word) (i : Instr) (h : decodeWord w = .instr i) :
    startCommand s w = exec i (s.setCmd w) := by
  simp only [startCommand, h]

/-- A stored word that decodes to none is a bad command. -/
theorem startCommand_bad (s : State) (w : Word) (b : BadWord) (h : decodeWord w = .bad b) :
    startCommand s w = .next (badCommand (s.setCmd w)) := by
  simp only [startCommand, h]

/-- The next step runs the command whose word was placed where the machine takes it from. -/
theorem step_withFetchWord (s : State) (nbits w : Nat) :
    step (s.withFetchWord nbits w) = startCommand s (tableWord nbits w) := by
  rw [State.withFetchWord, step_command _ (tableWord nbits w) s.pending rfl]
  rfl

end Sys2Proof.Machine
end

