-- ==== Sys2Proof/Tests/Slice0.lean ====
section
/-! SUPPORT. The model's own tests: words written out from spec/30_encoding.md, ill-formed terms, the vectors of
spec/95_test_vectors.md (the source of every expected result), the printed tables of spec/40_hec.md, and for every
statement with hypotheses a witness that meets them. -/

namespace Sys2Proof.Tests

open Sys2Proof.Machine

-- One theorem after another: the kernel evaluations below would each hold a thread while they wait.
set_option Elab.async false

/-! ### Decoding: words written out bit by bit from R108 and R109 -/

/-- `OP` 0001 -/
theorem test_decode_hecCheck : decodeWord 0b00000000000000000000000000000001 = .instr .hecCheck := by decide

/-- `OP` 0010, `REF` 1, `HECP` 1 -/
theorem test_decode_hdrParse : decodeWord 0b00000000000000000000000000110010 = .instr (.hdrParse .nni true) := by decide

/-- `OP` 0011 -/
theorem test_decode_oamClassify : decodeWord 0b00000000000000000000000000000011 = .instr .oamClassify := by decide

/-- `OP` 0100, `AAL` 100 -/
theorem test_decode_aal5Trailer : decodeWord 0b00000000000000000000010000000100 = .instr (.aal5Trailer .aal5) := by decide

/-- `OP` 0101; the fields it does not read, all set, are ignored -/
theorem test_decode_cellCount : decodeWord 0b00000000000000000000011111110101 = .instr .cellCount := by decide

/-- `OP` 0110, `NOPH` 1, `AAL` 010 -/
theorem test_decode_dispatch : decodeWord 0b00000000000000000000001001000110 = .instr (.dispatch true false .aal2) := by
  decide

/-- `OP` 0111, `REF` 1, `NOPH` 1, `AAL` 001 -/
theorem test_decode_processCell :
    decodeWord 0b00000000000000000000000101010111 = .instr (.processCell .nni false true false .aal1) := by
  decide

/-- `OP` 1000, `HINTV` 1, `AAL` 110 -/
theorem test_decode_processPdu :
    decodeWord 0b00000000000000000000011010001000 = .instr (.processPdu false true .signallingAal) := by
  decide

/-- Bit 11 is reserved, `OP` 9 is reserved, and the reserved bit is named first (R119). -/
theorem test_decode_bad :
    decodeWord 0x00000801 = .bad .reservedBits ∧ decodeWord 0x00000009 = .bad .reservedOp ∧
      decodeWord 0x80000000 = .bad .reservedBits := by
  decide

/-- The host's own reading of a row's word. -/
theorem test_decodeTableWord :
    decodeTableWord 32 0x427 = some (.processCell .uni true false false .aal5) ∧ decodeTableWord 32 0 = none := by
  decide

/-! ### Ill-formed terms are refused -/

theorem test_illFormed_writeData : (Event.writeData Config.maxBuf 0).wellFormed = false := by
  simp [Event.wellFormed]

/-- One byte more than the window holds. -/
theorem test_illFormed_load : (HostOp.load (List.replicate (Config.maxBuf + 1) 0)).wellFormed = false := by
  simp [HostOp.wellFormed]

/-- More bytes than `REQ_CAPLEN` can hold. -/
theorem test_illFormed_load_length (bytes : List Byte) (h : bytes.length = 2 ^ 32) :
    (HostOp.load bytes).wellFormed = false := by
  simp [HostOp.wellFormed, h]

/-- `HINTV` without its modifier `hint=`. -/
theorem test_illFormed_command : (HostOp.command { op := .dispatch, hintv := true }).wellFormed = false := by
  decide

/-! ### States of the test vectors (spec/95 section 0) -/

/-- `DATA[0..n)` holds the bytes, `REQ_CAPLEN` = n. -/
def loaded (bytes : List Byte) (rep : Nat) (arg : Word := 0) : State :=
  { State.reset with
    data := bytes.zipIdx.map fun c => (c.2, c.1)
    req := { Request.zero with
      arg := arg
      caplen := BitVec.ofNat 32 bytes.length
      replen := BitVec.ofNat 32 rep } }

/-- The results after the command word `w` on that state. -/
def after (w : Nat) (bytes : List Byte) (rep : Nat) (arg : Word := 0) : Option Results :=
  match step ((loaded bytes rep arg).withFetchWord 32 w) with
  | .next t => some t.res
  | .fault _ => none
  | .refused _ => none

/-- `k` bytes of one value. -/
def fill (k : Nat) (b : Byte) : List Byte := List.replicate k b

def llc8 : List Byte := [0xAA, 0xAA, 0x03, 0x00, 0x00, 0x00, 0x08, 0x00]

def p1h : List Byte := [0x00, 0x10, 0x00, 0x50, 0x40]

/-- The 48-byte PDU `V2`, with its first byte given. -/
def v2 (b : Byte) : List Byte := [b, 0x65, 0x6C, 0x6C, 0x6F] ++ fill 35 0 ++ [0, 0, 0, 5, 0x7F, 0x4C, 0xD5, 0xDE]

/-- The 48-byte PDU `V5`. -/
def v5 : List Byte := llc8 ++ fill 32 0 ++ [0, 0, 0, 8, 0x85, 0x4D, 0x8D, 0x6B]

/-- The smallest PDU with a trailer (T-A5-8). -/
def minimalPdu : List Byte := [0x41, 0x00, 0x00, 0x00, 0x01, 0xF3, 0xE9, 0x3D, 0x07]

/-! ### One step of each command -/

/-- T-HEC-15: a triple error miscorrected -/
theorem test_hecCheck_miscorrected : after 0x1 [0xC2, 0x00, 0x00, 0x01, 0x52] 5 =
    some { Results.zero with status := 0x11, diag := 0x2, hec := 0x00860902 } := by
  decide +kernel

/-- T-HEC-16: four bytes only -/
theorem test_hecCheck_short : after 0x1 [0x00, 0x00, 0x00, 0x01] 4 =
    some { Results.zero with status := 0x11, diag := 0x1 } := by
  decide +kernel

/-- T-HDR-1 -/
theorem test_hdrParse_uni : after 0x22 [0xAB, 0xC1, 0x23, 0x4B, 0xA1] 5 =
    some { Results.zero with status := 0x21, hdr0 := 0x003D1234, hdr1 := 0x01A1A0BC, hec := 0x00000001 } := by
  decide +kernel

/-- T-HDR-6: no HEC byte -/
theorem test_hdrParse_nni : after 0x12 [0xAB, 0xC1, 0x23, 0x44] 4 =
    some { Results.zero with status := 0x21, hdr0 := 0x00521234, hdr1 := 0x00000ABC } := by
  decide +kernel

/-- T-OAM-5: VCI 4, PTI 5 -/
theorem test_oamClassify_endToEnd : after 0x3 [] 0 0x00050004 =
    some { Results.zero with status := 0x31, cls := 0x3 } := by
  decide +kernel

/-- T-OAM-10: VCI 3, PTI 6 -/
theorem test_oamClassify_not : after 0x3 [] 0 0x00060003 =
    some { Results.zero with status := 0x31, cls := 0x1 } := by
  decide +kernel

/-- T-A5-8 -/
theorem test_aal5Trailer_minimal : after 0x404 minimalPdu 9 =
    some { Results.zero with
      status := 0x41, trl0 := 0x00010000, trl1 := 0xF3E93D07, aal5st := 0x3, outlen := 1, outrep := 1,
      crcreg := 0xC704DD7B } := by
  decide +kernel

/-- T-A5-9: one flipped bit -/
theorem test_aal5Trailer_crcBad : after 0x404 (v2 0x69) 48 =
    some { Results.zero with
      status := 0x41, diag := 0x8, trl0 := 0x00050000, trl1 := 0x7F4CD5DE, aal5st := 0x2301, outlen := 5,
      outrep := 5, crcreg := 0x8E64FDE0 } := by
  decide +kernel

/-- T-CC-3 -/
theorem test_cellCount : after 0x5 [] 96 = some { Results.zero with status := 0x51, aal5st := 0x4, cells := 2 } := by
  decide +kernel

/-- T-CC-4 -/
theorem test_cellCount_remainder : after 0x5 [] 100 = some { Results.zero with status := 0x51 } := by
  decide +kernel

/-- T-DSP-17: sniff d wins over sniff f -/
theorem test_dispatch_order : after 0x406 [0x45, 0x00, 0x03, 0xCC, 0x00, 0x00, 0x00, 0x00] 8 =
    some { Results.zero with status := 0x61, cls := 0x44, route := 0x6, outlen := 8, outrep := 8 } := by
  decide +kernel

/-- T-DSP-32: bridged Ethernet, captured 10 of 100 -/
theorem test_dispatch_ethernet : after 0x406 [0x00, 0x00, 0x01, 0x02, 0x03, 0x04, 0x05, 0x06, 0x07, 0x08] 100 =
    some { Results.zero with status := 0x61, cls := 0x44, route := 0x5, outoff := 2, outlen := 8, outrep := 98 } := by
  decide +kernel

/-- T-PC-4: report only, and the upgrade to `OamCell` -/
theorem test_processCell_oam : after 0x527 ([0x00, 0x00, 0x02, 0x18, 0x47, 0x01] ++ fill 47 0x6A) 53 =
    some { Results.zero with
      status := 0x71, diag := 0x2, hdr0 := 0x00340021, hdr1 := 0x01470000, hec := 0x00701B02, cls := 0x77,
      route := 0xA, outoff := 5, outlen := 48, outrep := 48 } := by
  decide +kernel

/-- T-PC-10: two diagnostics in one command -/
theorem test_processCell_short : after 0x227 [0x00, 0x10, 0x00, 0x52, 0x40, 0x11, 0x22] 7 =
    some { Results.zero with
      status := 0x71, diag := 0x3, hdr0 := 0x00310005, hdr1 := 0x01400001, hec := 0x000E1E02, cls := 0x25 } := by
  decide +kernel

/-- T-PDU-1 -/
theorem test_processPdu : after 0x408 v5 48 =
    some { Results.zero with
      status := 0x81, cls := 0x44, trl0 := 0x00080000, trl1 := 0x854D8D6B, aal5st := 0x2007, cells := 1, route := 0x3,
      outlen := 8, outrep := 8, crcreg := 0xC704DD7B } := by
  decide +kernel

/-- T-PDU-11: a truncated capture -/
theorem test_processPdu_truncated : after 0x408 (v5.take 40) 48 =
    some { Results.zero with
      status := 0x81, cls := 0x44, aal5st := 0x4, cells := 1, route := 0x3, outlen := 40, outrep := 48 } := by
  decide +kernel

/-- T-BAD-4 -/
theorem test_bad_reservedBit : after 0x801 p1h 5 = some { Results.zero with status := 0x13 } := by
  decide +kernel

/-- T-RST-4: a command right after reset -/
theorem test_reset_hecCheck : step (State.reset.withFetchWord 32 1) =
    .next { State.reset with
      req := { Request.zero with cmd := 1 }
      res := { Results.zero with status := 0x11, diag := 0x1 }
      tooShortCount := 1 } := by
  rfl

/-- T-DSP-2, for a table that accepts (the parameter of spec/95 section 0 does) -/
theorem test_dispatch_table5 (h : Config.table5Accepts 0x10 llc8 = true) :
    dispatchBody false true .aal5 (loaded llc8 8 0x10) Results.zero =
      .running { Results.zero with cls := 0x44, route := 0x12, key := 0x10, outlen := 8, outrep := 8 } := by
  have hs : tableAccepts Config.table5Accepts (loaded llc8 8 0x10) true (loaded llc8 8 0x10).wholeWindow = true := h
  show dispatchAal5 _ true _ _ = _
  rw [dispatchAal5, if_pos hs]
  decide +kernel

/-- T-DSP-22, for a table that accepts -/
theorem test_dispatch_table2 (h : Config.table2Accepts 0x20 [5, 6, 7, 8, 9] = true) :
    dispatchBody false true .aal2 (loaded [1, 2, 3, 4, 5, 6, 7, 8, 9] 9 0x20) Results.zero =
      .running { Results.zero with cls := 0x24, route := 0x19, key := 0x20, outoff := 4, outlen := 5, outrep := 5 } := by
  have hs : tableAccepts Config.table2Accepts (loaded [1, 2, 3, 4, 5, 6, 7, 8, 9] 9 0x20) true
      ((loaded [1, 2, 3, 4, 5, 6, 7, 8, 9] 9 0x20).wholeWindow.strip 4) = true := h
  show dispatchAal2Table _ true _ _ = _
  rw [dispatchAal2Table]
  refine (if_pos hs).trans ?_
  decide +kernel

/-- A host read of an index without a byte returns the free value, of which nothing is known (log 9). -/
theorem test_readData_absent : step (State.reset.setPending [.readData Config.maxBuf]) =
    .next { State.reset with returned := [(Config.absentByte 0 Config.maxBuf).setWidth 32] } := by
  rw [step_readData _ _ [] rfl, hostByte_of_le _ _ (le_refl _)]
  rfl

/-- The check value of R203 -/
theorem test_crc_check_value :
    crc32mpeg2 [0x31, 0x32, 0x33, 0x34, 0x35, 0x36, 0x37, 0x38, 0x39] = 0x0376E6E7 := by
  decide +kernel

/-- A read of a result register, and of a reserved number (R54, R78) -/
theorem test_readReg : (loaded p1h 5).readReg 0x02 = 5 ∧ (loaded p1h 5).readReg 0x07 = 0 := by
  decide +kernel

/-- P3: `OAM_CLASSIFY 33, 4` (R121) -/
theorem test_expand_oamClassify :
    expand (.oamClassify 33 4) = [.writeReg 0x01 0x00040021, .writeReg 0x00 0x00000003] := by
  decide

/-- P4: `PROCESS_CELL uni, hec, aal=Aal2, hint=0x20` (R120, R121) -/
theorem test_expand_hinted :
    expand (.hinted { op := .processCell, hecp := true, aal := .aal2 } 0x20) =
      [.writeReg 0x01 0x00000020, .writeReg 0x00 0x000002A7] := by
  decide

/-- `LOAD` (R121) -/
theorem test_expand_load :
    expand (.load [0xAA, 0x03]) =
      [.writeData 0 0xAA, .writeData 1 0x03, .writeReg 0x02 2, .writeReg 0x03 2] := by
  decide

/-! ### The printed tables -/

/-- The printed table of R147, SYND[0x00] to SYND[0x7F]. -/
theorem test_synd_table_low : (List.range 128).map (fun i => synd (BitVec.ofNat 8 i)) =
    [0x00, 0x07, 0x0E, 0x09, 0x1C, 0x1B, 0x12, 0x15, 0x38, 0x3F, 0x36, 0x31, 0x24, 0x23, 0x2A, 0x2D] ++
    [0x70, 0x77, 0x7E, 0x79, 0x6C, 0x6B, 0x62, 0x65, 0x48, 0x4F, 0x46, 0x41, 0x54, 0x53, 0x5A, 0x5D] ++
    [0xE0, 0xE7, 0xEE, 0xE9, 0xFC, 0xFB, 0xF2, 0xF5, 0xD8, 0xDF, 0xD6, 0xD1, 0xC4, 0xC3, 0xCA, 0xCD] ++
    [0x90, 0x97, 0x9E, 0x99, 0x8C, 0x8B, 0x82, 0x85, 0xA8, 0xAF, 0xA6, 0xA1, 0xB4, 0xB3, 0xBA, 0xBD] ++
    [0xC7, 0xC0, 0xC9, 0xCE, 0xDB, 0xDC, 0xD5, 0xD2, 0xFF, 0xF8, 0xF1, 0xF6, 0xE3, 0xE4, 0xED, 0xEA] ++
    [0xB7, 0xB0, 0xB9, 0xBE, 0xAB, 0xAC, 0xA5, 0xA2, 0x8F, 0x88, 0x81, 0x86, 0x93, 0x94, 0x9D, 0x9A] ++
    [0x27, 0x20, 0x29, 0x2E, 0x3B, 0x3C, 0x35, 0x32, 0x1F, 0x18, 0x11, 0x16, 0x03, 0x04, 0x0D, 0x0A] ++
    [0x57, 0x50, 0x59, 0x5E, 0x4B, 0x4C, 0x45, 0x42, 0x6F, 0x68, 0x61, 0x66, 0x73, 0x74, 0x7D, 0x7A] := by
  decide +kernel

/-- The printed table of R147, SYND[0x80] to SYND[0xFF]. -/
theorem test_synd_table_high : (List.range 128).map (fun i => synd (BitVec.ofNat 8 (128 + i))) =
    [0x89, 0x8E, 0x87, 0x80, 0x95, 0x92, 0x9B, 0x9C, 0xB1, 0xB6, 0xBF, 0xB8, 0xAD, 0xAA, 0xA3, 0xA4] ++
    [0xF9, 0xFE, 0xF7, 0xF0, 0xE5, 0xE2, 0xEB, 0xEC, 0xC1, 0xC6, 0xCF, 0xC8, 0xDD, 0xDA, 0xD3, 0xD4] ++
    [0x69, 0x6E, 0x67, 0x60, 0x75, 0x72, 0x7B, 0x7C, 0x51, 0x56, 0x5F, 0x58, 0x4D, 0x4A, 0x43, 0x44] ++
    [0x19, 0x1E, 0x17, 0x10, 0x05, 0x02, 0x0B, 0x0C, 0x21, 0x26, 0x2F, 0x28, 0x3D, 0x3A, 0x33, 0x34] ++
    [0x4E, 0x49, 0x40, 0x47, 0x52, 0x55, 0x5C, 0x5B, 0x76, 0x71, 0x78, 0x7F, 0x6A, 0x6D, 0x64, 0x63] ++
    [0x3E, 0x39, 0x30, 0x37, 0x22, 0x25, 0x2C, 0x2B, 0x06, 0x01, 0x08, 0x0F, 0x1A, 0x1D, 0x14, 0x13] ++
    [0xAE, 0xA9, 0xA0, 0xA7, 0xB2, 0xB5, 0xBC, 0xBB, 0x96, 0x91, 0x98, 0x9F, 0x8A, 0x8D, 0x84, 0x83] ++
    [0xDE, 0xD9, 0xD0, 0xD7, 0xC2, 0xC5, 0xCC, 0xCB, 0xE6, 0xE1, 0xE8, 0xEF, 0xFA, 0xFD, 0xF4, 0xF3] := by
  decide +kernel

/-- The printed table of R148, row by row. -/
theorem test_epos_table : (List.range 256).map (fun i => epos (BitVec.ofNat 8 i)) =
    [-128, 39, 38, 128, 37, 128, 128, 31, 36, 128, 128, 8, 128, 128, 30, 128] ++
    [35, 128, 128, 128, 128, 23, 7, 128, 128, 128, 128, 128, 29, 128, 128, 128] ++
    [34, 128, 128, 128, 128, 128, 128, 128, 128, 128, 22, 128, 6, 128, 128, 128] ++
    [128, 0, 128, 128, 128, 128, 128, 128, 28, 128, 128, 128, 128, 128, 128, 128] ++
    [33, 128, 128, 10, 128, 128, 128, 128, 128, 128, 128, 128, 128, 128, 128, 128] ++
    [128, 12, 128, 128, 21, 128, 128, 19, 5, 128, 128, 17, 128, 128, 128, 128] ++
    [128, 128, 128, 128, 128, 128, 128, 3, 128, 128, 128, 15, 128, 128, 128, 128] ++
    [27, 128, 128, 128, 128, 128, 128, 128, 128, 128, 128, 128, 128, 128, 128, 128] ++
    [32, 128, 128, 128, 128, 128, 9, 128, 128, 24, 128, 128, 128, 128, 128, 128] ++
    [128, 128, 128, 128, 128, 128, 128, 128, 128, 128, 128, 1, 128, 128, 128, 128] ++
    [128, 128, 11, 128, 128, 128, 128, 128, 20, 128, 128, 13, 128, 128, 18, 128] ++
    [4, 128, 128, 128, 128, 128, 16, 128, 128, 128, 128, 128, 128, 128, 128, 128] ++
    [128, 128, 128, 128, 128, 128, 128, 25, 128, 128, 128, 128, 128, 128, 2, 128] ++
    [128, 128, 128, 128, 128, 128, 14, 128, 128, 128, 128, 128, 128, 128, 128, 128] ++
    [26, 128, 128, 128, 128, 128, 128, 128, 128, 128, 128, 128, 128, 128, 128, 128] ++
    [128, 128, 128, 128, 128, 128, 128, 128, 128, 128, 128, 128, 128, 128, 128, 128] := by
  decide +kernel

/-! ### Witnesses: states and operands that meet the hypotheses of the statements -/

/-- A capture of at most 53 bytes fits every window (R8). -/
theorem fits_of_le (s : State) (h : s.capLen ≤ 53) : s.Fits := le_trans h (Nat.le_add_left 53 _)

/-- The window has a last byte. -/
theorem lastIndex_lt : Config.maxBuf - 1 < Config.maxBuf := Nat.sub_lt (Nat.succ_pos _) Nat.one_pos

/-- A word for each clause, the ends of the reserved codes among them. -/
theorem witness_DecodeFollowsTheDecodingRule :
    (0x00000800 : Word).extractLsb' 11 21 ≠ 0#21 ∧ (0x80000000 : Word).extractLsb' 11 21 ≠ 0#21 ∧
      (0x000007FF : Word).extractLsb' 11 21 = 0#21 ∧
      ∀ op : BitVec 4, ((op.setWidth 32 : Word)).extractLsb' 11 21 = 0#21 ∧ (op.setWidth 32 : Word).extractLsb' 0 4 = op := by
  decide

/-- The first and the last code. -/
theorem witness_AalKindCodes :
    (AalKind.unknown, (0 : BitVec 3)) ∈ aalCodes ∧ (AalKind.oamCell, (7 : BitVec 3)) ∈ aalCodes ∧
      (0x00000704 : Word).extractLsb' 11 21 = 0#21 ∧ (0x00000704 : Word).extractLsb' 0 4 = 4#4 ∧
      (0x00000704 : Word).extractLsb' 8 3 = 7#3 ∧ (loaded llc8 8).Fits ∧
      ∃ t, exec (.dispatch false false .oamCell) (loaded llc8 8) = .next t :=
  ⟨by decide, by decide, by decide, by decide, by decide, fits_of_le _ (by decide), _, rfl⟩

theorem witness_DecodeOfEncodeIsTheCommand : (Instr.processCell .nni true true true .oamCell).wellFormed = true := by
  decide

theorem witness_ResetEventClearsEveryRegister : ((loaded p1h 5).setPending [.reset]).pending = .reset :: [] := rfl

/-- The first and the last reserved number, the first and the last result register, a word with a reserved bit. -/
theorem witness_ReservedNumbersAndBits :
    (4 ≤ (0x04 : RegNum).toNat ∧ (0x04 : RegNum).toNat ≤ 15) ∧ (4 ≤ (0x0F : RegNum).toNat ∧ (0x0F : RegNum).toNat ≤ 15) ∧
      16 ≤ (0x10 : RegNum).toNat ∧ 16 ≤ (0x1F : RegNum).toNat ∧ (0x00000801 : Word).extractLsb' 11 21 ≠ 0#21 ∧
      (State.reset.setPending [.writeReg 0x04 7]).pending = .writeReg 0x04 7 :: [] ∧
      (State.reset.setPending [.writeReg 0 0x801]).pending = .writeReg 0 0x801 :: [] := by
  decide

/-- The first reserved bit of `RES_STATUS` and the last of `RES_ROUTE` are among the pairs. -/
theorem witness_ReservedNumbersAndBits_bits :
    ((0x10 : RegNum), (0xFFFFFF0C : Word)) ∈ reservedBits ∧ ((0x1A : RegNum), (0xFFFFF0E0 : Word)) ∈ reservedBits := by
  decide

/-- A loaded window and the results of a HEC check have the invariant. -/
theorem inv_afterHecCheck (es : List Event) :
    (((loaded p1h 5).setRes { Results.zero with status := 0x11, hec := 1 }).setPending es).Inv := by
  refine ⟨rfl, ?_, ?_⟩
  · show Memory.inWindow [(0, 0x00), (1, 0x10), (2, 0x00), (3, 0x50), (4, 0x40)] = true
    simp [Memory.inWindow, Config.maxBuf]
  · show Results.Legal { Results.zero with status := 0x11, hec := 1 }
    constructor <;> first | decide | (unfold Results.ReservedClear; decide)

/-- The first and the last number of each group, and a state with the invariant. -/
theorem witness_RegisterReadsReturnTheNamedRegister :
    ((0x00 : RegNum), (0 : Word)) ∈ (loaded p1h 5).req.byNumber ∧ ((0x03 : RegNum), (5 : Word)) ∈ (loaded p1h 5).req.byNumber ∧
      ((0x10 : RegNum), (0x11 : Word)) ∈ ({ Results.zero with status := 0x11, hec := 1 } : Results).byNumber ∧
      ((0x1F : RegNum), (0 : Word)) ∈ ({ Results.zero with status := 0x11, hec := 1 } : Results).byNumber ∧
      (((loaded p1h 5).setRes { Results.zero with status := 0x11, hec := 1 }).setPending [.readReg 0x10]).Inv ∧
      ((loaded p1h 5).setPending [.readReg 0x03]).pending = .readReg 0x03 :: [] :=
  ⟨by decide, by decide, by decide, by decide, inv_afterHecCheck _, rfl⟩

theorem witness_OnlyCommandWritesHaveSideEffects :
    (State.reset.setPending [.writeReg 0 0x427]).pending = .writeReg 0 0x427 :: [] ∧
      ((0x01 : RegNum) ≠ 0 ∧ (State.reset.setPending [.writeReg 0x01 7]).pending = .writeReg 0x01 7 :: []) ∧
      ((0x1F : RegNum) ≠ 0 ∧ (State.reset.setPending [.writeReg 0x1F 7]).pending = .writeReg 0x1F 7 :: []) ∧
      (State.reset.setPending [.readReg 0x10]).pending = .readReg 0x10 :: [] ∧
      (Config.maxBuf - 1 < Config.maxBuf ∧
        (State.reset.setPending [.readData (Config.maxBuf - 1)]).pending = .readData (Config.maxBuf - 1) :: []) ∧
      (Config.maxBuf - 1 < Config.maxBuf ∧
        (State.reset.setPending [.writeData (Config.maxBuf - 1) 7]).pending = .writeData (Config.maxBuf - 1) 7 :: []) :=
  ⟨rfl, ⟨by decide, rfl⟩, ⟨by decide, rfl⟩, rfl, ⟨lastIndex_lt, rfl⟩, ⟨lastIndex_lt, rfl⟩⟩

theorem witness_DataReadReturnsTheByteLastWritten :
    Config.maxBuf - 1 < Config.maxBuf ∧
      (State.reset.setPending [.writeData (Config.maxBuf - 1) 7, .readData (Config.maxBuf - 1)]).pending =
        .writeData (Config.maxBuf - 1) 7 :: .readData (Config.maxBuf - 1) :: [] :=
  ⟨lastIndex_lt, rfl⟩

theorem witness_DataWriteOutsideTheWindowFaults :
    Config.maxBuf ≤ Config.maxBuf ∧
      (State.reset.setPending [.writeData Config.maxBuf 7]).pending = .writeData Config.maxBuf 7 :: [] :=
  ⟨le_refl _, rfl⟩

theorem witness_DataReadOutsideTheWindowReturnsSomeByte :
    Config.maxBuf ≤ Config.maxBuf ∧
      (State.reset.setPending [.readData Config.maxBuf]).pending = .readData Config.maxBuf :: [] :=
  ⟨le_refl _, rfl⟩

theorem witness_StepRunsTheDecodedCommand :
    (State.reset.withFetchWord 32 0x427).pending = .writeReg 0 0x427 :: [] ∧
      decodeWord 0x427 = .instr (.processCell .uni true false false .aal5) := by
  decide

/-- A reserved bit, `OP` 0, 9 and 15. -/
theorem witness_BadCommandOnlySetsStatus :
    (State.reset.withFetchWord 32 0x801).pending = .writeReg 0 0x801 :: [] ∧
      (0x801 : Word).extractLsb' 11 21 ≠ 0#21 ∧ ((0x0 : Word).extractLsb' 0 4).toNat = 0 ∧
      9 ≤ ((0x9 : Word).extractLsb' 0 4).toNat ∧ 9 ≤ ((0xF : Word).extractLsb' 0 4).toNat := by
  decide

/-- A capture one byte longer than the window, wherever 32 bits can hold its length: `MAX_BUF` itself is open (R8), so
no number is known to exceed it. -/
theorem witness_BadCommandOnlySetsStatus_oversize (h : Config.maxBuf + 1 < 2 ^ 32) :
    ¬ (State.reset.setReq { Request.zero with caplen := BitVec.ofNat 32 (Config.maxBuf + 1) }).Fits := by
  have h1 : (BitVec.ofNat 32 (Config.maxBuf + 1)).toNat = Config.maxBuf + 1 := by
    rw [BitVec.toNat_ofNat, Nat.mod_eq_of_lt h]
  show ¬ (BitVec.ofNat 32 (Config.maxBuf + 1)).toNat ≤ Config.maxBuf
  omega

theorem witness_LoadFillsTheWindowAndTheLengths :
    (HostOp.load []).wellFormed = true ∧ (HostOp.load (fill 53 7)).wellFormed = true := by
  constructor <;> simp [HostOp.wellFormed, fill, Config.maxBuf]

theorem witness_OamClassifyPseudoInstructionClassifiesItsOperands : State.reset.Fits := fits_of_le _ (by decide)

/-- Four bytes, five bytes. -/
theorem witness_HecCheckResult :
    (0x000007F1 : Word) &&& 0xFFFFF80F#32 = 0x00000001#32 ∧
      ((loaded (p1h.take 4) 4).Fits ∧ (loaded (p1h.take 4) 4).capLen < 5) ∧
      ((loaded p1h 5).Fits ∧ 5 ≤ (loaded p1h 5).capLen) :=
  ⟨by decide, ⟨fits_of_le _ (by decide), by decide⟩, fits_of_le _ (by decide), by decide⟩

/-- A syndrome of two inverted bits. -/
theorem witness_EposTableContents : (0x03 : Byte) ≠ 0 ∧ ∀ p : Fin 40, (0x03 : Byte) ≠ positionSyndrome p := by
  decide +kernel

/-- The idle cell's header, and the first and the last position. -/
theorem witness_HecErrorCoverage :
    (hecCheckNumber 0x0000000152).1 = .noErrorDetected ∧ (0 : Fin 40) ≠ 39 := by
  decide +kernel

/-- Four bytes without a HEC byte, five with one. -/
theorem witness_HdrParseFieldsAsRead :
    ((loaded (p1h.take 4) 4).Fits ∧ 4 + false.toNat ≤ (loaded (p1h.take 4) 4).capLen) ∧
      ((loaded p1h 5).Fits ∧ 4 + true.toNat ≤ (loaded p1h 5).capLen) :=
  ⟨⟨fits_of_le _ (by decide), by decide⟩, fits_of_le _ (by decide), by decide⟩

/-- Three bytes without a HEC byte, four with one. -/
theorem witness_HdrParseTooShort :
    ((loaded (p1h.take 3) 3).Fits ∧ (loaded (p1h.take 3) 3).capLen < 4 + false.toNat) ∧
      ((loaded (p1h.take 4) 4).Fits ∧ (loaded (p1h.take 4) 4).capLen < 4 + true.toNat) :=
  ⟨⟨fits_of_le _ (by decide), by decide⟩, fits_of_le _ (by decide), by decide⟩

theorem witness_OamClassifyFollowsTheTruthTable : (loaded [] 0 0x00050004).Fits := fits_of_le _ (by decide)

theorem guards_of_present (s : State) (aal : AalKind) (h : trailerPresent s aal = true) : TrailerGuards s aal :=
  (trailerPresent_iff s aal).mp h

theorem not_guards_of_absent (s : State) (aal : AalKind) (h : trailerPresent s aal = false) : ¬ TrailerGuards s aal :=
  fun hg => by simp [(trailerPresent_iff s aal).mpr hg] at h

/-- No padding, for both kinds; and the most padding that the guards allow. -/
theorem witness_Aal5TrailerPresent :
    ((loaded minimalPdu 9).Fits ∧ TrailerGuards (loaded minimalPdu 9) .aal5) ∧
      ((loaded minimalPdu 0).Fits ∧ TrailerGuards (loaded minimalPdu 0) .signallingAal) ∧
      TrailerGuards (loaded ([0x41] ++ fill 47 0 ++ [0, 0, 0, 1, 0, 0, 0, 0]) 56) .aal5 :=
  ⟨⟨fits_of_le _ (by decide), guards_of_present _ _ (by decide +kernel)⟩,
    ⟨fits_of_le _ (by decide), guards_of_present _ _ (by decide +kernel)⟩,
    guards_of_present _ _ (by decide +kernel)⟩

/-- Each guard failing alone: another kind, a truncated capture, seven bytes, a length of 0, a length one too long, one
byte of padding too many. -/
theorem witness_Aal5TrailerAbsent :
    ((loaded minimalPdu 9).Fits ∧ ¬ TrailerGuards (loaded minimalPdu 9) .aal1) ∧
      ((loaded minimalPdu 10).Fits ∧ ¬ TrailerGuards (loaded minimalPdu 10) .aal5) ∧
      ((loaded (fill 7 0) 7).Fits ∧ ¬ TrailerGuards (loaded (fill 7 0) 7) .aal5) ∧
      ((loaded (fill 9 0) 9).Fits ∧ ¬ TrailerGuards (loaded (fill 9 0) 9) .aal5) ∧
      ((loaded [0x41, 0, 0, 0, 2, 0, 0, 0, 0] 9).Fits ∧ ¬ TrailerGuards (loaded [0x41, 0, 0, 0, 2, 0, 0, 0, 0] 9) .aal5) ∧
      ¬ TrailerGuards (loaded ([0x41] ++ fill 48 0 ++ [0, 0, 0, 1, 0, 0, 0, 0]) 57) .aal5 :=
  ⟨⟨fits_of_le _ (by decide), not_guards_of_absent _ _ (by decide +kernel)⟩,
    ⟨fits_of_le _ (by decide), not_guards_of_absent _ _ (by decide +kernel)⟩,
    ⟨fits_of_le _ (by decide), not_guards_of_absent _ _ (by decide +kernel)⟩,
    ⟨fits_of_le _ (by decide), not_guards_of_absent _ _ (by decide +kernel)⟩,
    ⟨fits_of_le _ (by decide), not_guards_of_absent _ _ (by decide +kernel)⟩,
    not_guards_of_absent _ _ (by decide +kernel)⟩

/-- A command that shows a trailer, with a correct and with a wrong CRC: `TrailerBounds` and
`CrcCheckPassesExactlyForTheInvertedCrc`. -/
theorem witness_TrailerBounds :
    (∃ t, exec (.aal5Trailer .aal5) (loaded minimalPdu 9) = .next t ∧ t.res.trlp = true ∧ t.res.crcok = true) ∧
      (∃ t, exec (.processPdu false false .aal5) (loaded (v2 0x69) 48) = .next t ∧ t.res.trlp = true ∧
        t.res.crcok = false) :=
  ⟨⟨_, rfl, by decide +kernel⟩, _, rfl, by decide +kernel⟩

theorem witness_CrcCheckPassesExactlyForTheInvertedCrc :
    ∃ t, exec (.aal5Trailer .aal5) (loaded minimalPdu 9) = .next t ∧ t.res.trlp = true :=
  ⟨_, rfl, by decide +kernel⟩

/-- Another `UU`, another `CPI`, the same length bytes. -/
theorem witness_PaddingUuAndCpiAreNotChecked :
    (loaded [0x41, 9, 8, 0, 1, 0, 0, 0, 0] 9).req = (loaded minimalPdu 9).req ∧
      (loaded [0x41, 9, 8, 0, 1, 0, 0, 0, 0] 9).dataByte 3 = (loaded minimalPdu 9).dataByte 3 ∧
      (loaded [0x41, 9, 8, 0, 1, 0, 0, 0, 0] 9).dataByte 4 = (loaded minimalPdu 9).dataByte 4 ∧
      (∃ t, exec (.aal5Trailer .aal5) (loaded minimalPdu 9) = .next t) ∧
      ∃ t, exec (.aal5Trailer .aal5) (loaded [0x41, 9, 8, 0, 1, 0, 0, 0, 0] 9) = .next t :=
  ⟨by decide, rfl, rfl, ⟨_, rfl⟩, _, rfl⟩

theorem witness_CellCountResult : (loaded [] 96).Fits ∧ (loaded [] 100).Fits :=
  ⟨fits_of_le _ (by decide), fits_of_le _ (by decide)⟩

theorem witness_DispatchSignalling : (loaded [1, 2, 3] 3).Fits := fits_of_le _ (by decide)

/-- Eight bytes and seven without a hint: no table takes them. -/
theorem witness_DispatchAal5 :
    ((loaded llc8 8).Fits ∧ ¬ (loaded llc8 8).Table5Takes false 0 8 ∧ 7 < min (loaded llc8 8).capLen (loaded llc8 8).repLen) ∧
      ((loaded llc8 7).Fits ∧ ¬ (loaded llc8 7).Table5Takes false 0 7 ∧
        min (loaded llc8 7).capLen (loaded llc8 7).repLen ≤ 7) :=
  ⟨⟨fits_of_le _ (by decide), fun h => absurd h.1 (by decide), by decide⟩,
    fits_of_le _ (by decide), fun h => absurd h.1 (by decide), by decide⟩

/-- A table that takes the payload: `TABLE5_ACCEPTS` is open (R8), so that it accepts is a premise. -/
theorem witness_DispatchAal5_table (h : Config.table5Accepts 0x10 llc8 = true) :
    (loaded llc8 8 0x10).Fits ∧ (loaded llc8 8 0x10).Table5Takes true 0 8 :=
  ⟨fits_of_le _ (by decide), rfl, h⟩

/-- Three bytes, four bytes, and no sub-header, without a hint. -/
theorem witness_DispatchAal2 :
    ((loaded [1, 2, 3] 3).Fits ∧ min (loaded [1, 2, 3] 3).capLen (loaded [1, 2, 3] 3).repLen < 4) ∧
      ((loaded [1, 2, 3, 4] 4).Fits ∧ 4 ≤ min (loaded [1, 2, 3, 4] 4).capLen (loaded [1, 2, 3, 4] 4).repLen ∧
        ¬ (loaded [1, 2, 3, 4] 4).Table2Takes false 4 0) ∧
      ¬ (loaded [1, 2, 3] 3).Table2Takes false 0 3 :=
  ⟨⟨fits_of_le _ (by decide), by decide⟩, ⟨fits_of_le _ (by decide), by decide, fun h => absurd h.1 (by decide)⟩,
    fun h => absurd h.1 (by decide)⟩

/-- A table that takes the payload: `TABLE2_ACCEPTS` is open (R8), so that it accepts is a premise. -/
theorem witness_DispatchAal2_table (h : Config.table2Accepts 0x20 [5, 6, 7, 8, 9] = true) :
    (loaded [1, 2, 3, 4, 5, 6, 7, 8, 9] 9 0x20).Fits ∧
      (loaded [1, 2, 3, 4, 5, 6, 7, 8, 9] 9 0x20).Table2Takes true 4 5 :=
  ⟨fits_of_le _ (by decide), rfl, h⟩

theorem witness_DispatchEverythingElseIsRaw :
    (loaded llc8 8).Fits ∧ (AalKind.oamCell = .unknown ∨ AalKind.oamCell = .aal1 ∨ AalKind.oamCell = .aal34 ∨
      AalKind.oamCell = .userAal ∨ AalKind.oamCell = .oamCell) :=
  ⟨fits_of_le _ (by decide), by decide⟩

/-- A dispatch that is not too short. -/
theorem witness_EveryDispatchDecidesOneRoute :
    Dispatches (.dispatch false false .aal5) ∧ (loaded llc8 8).Fits ∧
      ∃ t, exec (.dispatch false false .aal5) (loaded llc8 8) = .next t ∧ t.res.tooShort = false :=
  ⟨trivial, fits_of_le _ (by decide), _, rfl, by decide +kernel⟩

/-- A window that ends at the end of the capture. -/
theorem witness_WindowLiesInsideTheCapture :
    ∃ t, exec (.processCell .uni true false false .signallingAal) (loaded p1h 5) = .next t ∧ t.res.outoff = 5 :=
  ⟨_, rfl, by decide +kernel⟩

/-- The cell `p1h`, `llc8` and its payload standing alone. -/
theorem witness_ProcessCellIsParseClassifyDispatch :
    (loaded (p1h ++ llc8) 13).Fits ∧ 4 + true.toNat ≤ (loaded (p1h ++ llc8) 13).capLen ∧
      (loaded llc8 8).capLen = (loaded (p1h ++ llc8) 13).capLen - (4 + true.toNat) ∧
      (loaded llc8 8).repLen = (loaded (p1h ++ llc8) 13).repLen - (4 + true.toNat) ∧
      (loaded llc8 8).req.arg = (loaded (p1h ++ llc8) 13).req.arg ∧
      ∀ k, k < (loaded llc8 8).capLen →
        (loaded llc8 8).dataByte k = (loaded (p1h ++ llc8) 13).dataByte (4 + true.toNat + k) := by
  refine ⟨fits_of_le _ (by decide), by decide, by decide, by decide, by decide, ?_⟩
  intro k hk
  have h8 : k < 8 := hk
  rcases k with _ | _ | _ | _ | _ | _ | _ | _ | k <;> first | rfl | omega

theorem witness_ProcessCellTooShort :
    (loaded (p1h.take 4) 4).Fits ∧ (loaded (p1h.take 4) 4).capLen < 4 + true.toNat :=
  ⟨fits_of_le _ (by decide), by decide⟩

/-- A cell that is upgraded (T-PC-5's header) and one that is not. -/
theorem witness_EffectiveAalKind :
    ((loaded [0x00, 0x00, 0x00, 0x40, 0x92] 5).Fits ∧ 4 + true.toNat ≤ (loaded [0x00, 0x00, 0x00, 0x40, 0x92] 5).capLen ∧
      ∃ t, exec (.processCell .uni true false false .unknown) (loaded [0x00, 0x00, 0x00, 0x40, 0x92] 5) = .next t ∧
        t.res.oam = true) ∧
      ∃ t, exec (.processCell .uni true false false .unknown) (loaded p1h 5) = .next t ∧ t.res.oam = false :=
  ⟨⟨fits_of_le _ (by decide), by decide, _, rfl, by decide +kernel⟩, _, rfl, by decide +kernel⟩

theorem witness_NoTrailerOutsidePduCommands :
    ¬ ReadsPdu (.dispatch false false .aal5) ∧ ∃ t, exec (.dispatch false false .aal5) (loaded minimalPdu 9) = .next t :=
  ⟨fun h => h, _, rfl⟩

/-- The PDU's content standing alone. -/
theorem witness_ProcessPduIsCountTrailerDispatch :
    (loaded minimalPdu 9).Fits ∧ ∃ a, exec (.aal5Trailer .aal5) (loaded minimalPdu 9) = .next a ∧
      (loaded [0x41] 1).req.caplen = a.res.outlen ∧ (loaded [0x41] 1).req.replen = a.res.outrep ∧
      (loaded [0x41] 1).req.arg = (loaded minimalPdu 9).req.arg ∧
      ∀ k, k < (loaded [0x41] 1).capLen → (loaded [0x41] 1).dataByte k = (loaded minimalPdu 9).dataByte k := by
  refine ⟨fits_of_le _ (by decide), _, rfl, by decide +kernel, by decide +kernel, by decide, ?_⟩
  intro k hk
  have h1 : k < 1 := hk
  rcases k with _ | k <;> first | rfl | omega

theorem witness_ProcessPduDoesNotClassify :
    (loaded minimalPdu 9).Fits ∧ ∃ t, exec (.processPdu false false .oamCell) (loaded minimalPdu 9) = .next t :=
  ⟨fits_of_le _ (by decide), _, rfl⟩

/-- A reported length that is a multiple of 48 and one that is not. -/
theorem witness_ProcessPduAlwaysCountsCells :
    ((loaded minimalPdu 96).Fits ∧ (loaded minimalPdu 96).repLen % 48 = 0 ∧
      ∃ t, exec (.processPdu false false .aal1) (loaded minimalPdu 96) = .next t) ∧
      ((loaded minimalPdu 9).Fits ∧ (loaded minimalPdu 9).repLen % 48 ≠ 0 ∧
        ∃ t, exec (.processPdu false false .aal1) (loaded minimalPdu 9) = .next t) :=
  ⟨⟨fits_of_le _ (by decide), by decide, _, rfl⟩, fits_of_le _ (by decide), by decide, _, rfl⟩

/-- A signalling PDU with a trailer and one without. -/
theorem witness_SignallingPduGoesToSscop :
    ((loaded minimalPdu 9).Fits ∧ TrailerGuards (loaded minimalPdu 9) .signallingAal) ∧
      ((loaded (fill 7 0) 7).Fits ∧ ¬ TrailerGuards (loaded (fill 7 0) 7) .signallingAal) :=
  ⟨⟨fits_of_le _ (by decide), guards_of_present _ _ (by decide +kernel)⟩,
    fits_of_le _ (by decide), not_guards_of_absent _ _ (by decide +kernel)⟩

/-- Too short for the AAL2 sub-header, and a correctable header that goes on. -/
theorem witness_DataFlowStopsEarlyOnlyWhenTooShort :
    ((loaded [1, 2, 3] 3).Fits ∧
      ∃ t, exec (.processPdu false false .aal2) (loaded [1, 2, 3] 3) = .next t ∧ t.res.tooShort = true) ∧
      ((loaded [0x80, 0x10, 0x00, 0x50, 0x40] 5).Fits ∧
        ∃ t, exec (.processCell .uni true false false .aal5) (loaded [0x80, 0x10, 0x00, 0x50, 0x40] 5) = .next t ∧
          t.res.tooShort = false ∧ t.res.hecCorrectable = true) :=
  ⟨⟨fits_of_le _ (by decide), _, rfl, by decide +kernel⟩, fits_of_le _ (by decide), _, rfl, by decide +kernel⟩

theorem witness_NoCommandWritesDataOrRequests : ∃ t, exec .hecCheck (loaded p1h 5) = .next t := ⟨_, rfl⟩

/-- Two states that differ in an earlier result and in a byte above `REQ_CAPLEN`. -/
theorem witness_ResultsDependOnlyOnRequestsAndCapturedBytes :
    (((loaded p1h 5).setRes { Results.zero with diag := 8 }).writeByte 5 7).req = (loaded p1h 5).req ∧
      (∀ k, k < (loaded p1h 5).capLen →
        (((loaded p1h 5).setRes { Results.zero with diag := 8 }).writeByte 5 7).dataByte k = (loaded p1h 5).dataByte k) ∧
      ∃ t t', exec .hecCheck (loaded p1h 5) = .next t ∧
        exec .hecCheck (((loaded p1h 5).setRes { Results.zero with diag := 8 }).writeByte 5 7) = .next t' := by
  refine ⟨rfl, ?_, _, _, rfl, rfl⟩
  intro k hk
  have h5 : k < 5 := hk
  rw [dataByte_writeByte, if_neg (by omega)]
  rfl

/-- Both outcomes of the length check. -/
theorem witness_TooShortIsRaisedExactlyForMissingBytes :
    ((loaded (p1h.take 4) 4).Fits ∧
      ∃ t, exec .hecCheck (loaded (p1h.take 4) 4) = .next t ∧ t.res.tooShort = true) ∧
      ((loaded p1h 5).Fits ∧ ∃ t, exec .hecCheck (loaded p1h 5) = .next t ∧ t.res.tooShort = false) :=
  ⟨⟨fits_of_le _ (by decide), _, rfl, by decide +kernel⟩, fits_of_le _ (by decide), _, rfl, by decide +kernel⟩

/-- A bad CRC. -/
theorem witness_DiagnosticsThatExcludeEachOther :
    ∃ t, exec (.aal5Trailer .aal5) (loaded (v2 0x69) 48) = .next t ∧ t.res.crcBad = true :=
  ⟨_, rfl, by decide +kernel⟩

theorem witness_RunRecordsCountShortAndBadCommands :
    ∃ t, exec .hecCheck State.reset = .next t ∧ t.tooShortCount = 1 :=
  ⟨_, rfl, by decide +kernel⟩

/-- A loaded window, the results of a HEC check, and a command to come. -/
theorem witness_StepKeepsTheInvariant :
    (((loaded p1h 5).setRes { Results.zero with status := 0x11, hec := 1 }).withFetchWord 32 0x427).Inv ∧
      ∃ t, step (((loaded p1h 5).setRes { Results.zero with status := 0x11, hec := 1 }).withFetchWord 32 0x427) =
        .next t :=
  ⟨inv_afterHecCheck _, _, rfl⟩

end Sys2Proof.Tests
end

section
/-! PROOFS, the family of the state. Reserved bits, status words and diagnostic bits: what a field write leaves 0, and the
flags that the end of a command shows (spec/10_state.md R38, R39, R54, R59). -/

namespace Sys2Proof.Machine

/-! ### Reserved bits -/

/-- The bits of a mask are 0 in a word exactly when each of them is. -/
theorem and_eq_zero_iff (x m : Word) : x &&& m = 0 ↔ ∀ i, m.getLsbD i = true → x.getLsbD i = false := by
  constructor
  · intro h i hm
    simpa [hm] using congrArg (fun y => BitVec.getLsbD y i) h
  · intro h
    apply BitVec.eq_of_getLsbD_eq
    intro i _
    cases hm : m.getLsbD i with
    | true => simp [hm, h i hm]
    | false => simp [hm]

/-- The bits that a field occupies. -/
theorem getLsbD_fieldMask (lo w i : Nat) :
    (fieldMask lo w).getLsbD i = decide (lo ≤ i ∧ i < lo + w ∧ i < 32) := by
  rw [Bool.eq_iff_iff]
  simp [fieldMask]
  omega

/-- A field write beside the bits of a mask leaves those bits 0. -/
theorem putField_and_eq_zero (r m : Word) (lo : Nat) {w : Nat} (v : BitVec w) (hr : r &&& m = 0)
    (hm : fieldMask lo w &&& m = 0) : putField r lo v &&& m = 0 := by
  rw [and_eq_zero_iff] at hr hm ⊢
  intro i hi
  rw [getLsbD_putField]
  split
  · next hin => exact absurd (getLsbD_fieldMask lo w i) (by rw [hm i hi]; simp [hin])
  · exact hr i hi

/-- The mask of the bits that a register defines keeps a register whose reserved bits are 0. -/
theorem and_eq_self_of_reserved_zero (x m : Word) (h : x &&& ~~~ m = 0) : x &&& m = x := by
  rw [and_eq_zero_iff] at h
  apply BitVec.eq_of_getLsbD_eq
  intro i hi
  rw [BitVec.getLsbD_and]
  cases hm : m.getLsbD i with
  | true => exact Bool.and_true _
  | false => rw [h i (by rw [BitVec.getLsbD_not, hm]; simp [hi])]; rfl

/-! ### The status word -/

/-- `RES_STATUS.DONE` is set in every status word (R59). -/
theorem done_statusWord (cmd : Word) (isBad : Bool) : (statusWord cmd isBad).getLsbD 0 = true := by
  simp only [statusWord, getLsbD_putField]
  simp

/-- `RES_STATUS.BAD_CMD` is as given (R311). -/
theorem badCmd_statusWord (cmd : Word) (isBad : Bool) : (statusWord cmd isBad).getLsbD 1 = isBad := by
  simp only [statusWord, getLsbD_putField]
  simp

/-- `RES_STATUS.LASTOP` is the word's `OP` (R59). -/
theorem lastOp_statusWord (cmd : Word) (isBad : Bool) : getField (statusWord cmd isBad) 4 4 = opField cmd :=
  getField_putField_same _ _ _ (by decide)

/-- The reserved bits of a status word are 0 (R38, R54). -/
theorem reserved_statusWord (cmd : Word) (isBad : Bool) : statusWord cmd isBad &&& 0xFFFFFF0C#32 = 0 :=
  putField_and_eq_zero _ _ _ _
    (putField_and_eq_zero _ _ _ _ (putField_and_eq_zero _ _ _ _ (by decide) (by decide)) (by decide)) (by decide)

/-- The status of a command is its status word, bad exactly when the capture does not fit (R59, R311). -/
theorem status_runCommand (s : State) (body : State → Results → Flow) :
    (runCommand s body).res.status = statusWord s.req.cmd (decide (Config.maxBuf < s.capLen)) := by
  by_cases h : Config.maxBuf < s.req.caplen.toNat
  · simp [runCommand, h, State.capLen, badCommand]
  · simp [runCommand, h, State.capLen, endCommand]

/-! ### Diagnostic bits -/

/-- Setting a flag leaves every other bit (R11). -/
theorem getLsbD_putField_flag (r : Word) (k i : Nat) (hk : k < 32) :
    (putField r k (bit true)).getLsbD i = (r.getLsbD i || i == k) := by
  rw [getLsbD_putField]
  by_cases h : i = k
  · simp [h, hk]
  · rw [if_neg (by omega), beq_false_of_ne h, Bool.or_false]

/-- `TooShort` sets bit 0 and leaves the others (R312). -/
theorem getLsbD_raiseTooShort (r : Results) (i : Nat) :
    (raiseTooShort r).results.diag.getLsbD i = (r.diag.getLsbD i || i == 0) :=
  getLsbD_putField_flag _ _ _ (by decide)

end Sys2Proof.Machine
end

section
/-! PROOFS, the family of the state. What the results hold while a command writes them: the clauses of `Results.Legal` by
groups of registers, each group kept by every part of the pseudocode. -/

namespace Sys2Proof.Machine

/-! ### The clauses by groups of registers -/

/-- What `RES_HDR0` and `RES_HDR1` can hold (R40, R41, R171). -/
structure LegalHeader (hdr0 hdr1 : Word) : Prop where
  reserved0 : hdr0 &&& 0xFF800000#32 = 0
  reserved1 : hdr1 &&& 0xFE000000#32 = 0
  kind : (hdr0.getLsbD 21 ^^ hdr0.getLsbD 22) = hdr0.getLsbD 20 ∧ (hdr0.getLsbD 21 && hdr0.getLsbD 22) = false
  gfc_zero : hdr0.getLsbD 21 = false → getField hdr1 12 4 = 0
  vpi_uni : hdr0.getLsbD 22 = false → (getField hdr1 0 12).toNat < 256

/-- What `RES_HEC` can hold beside its two diagnostics (R42, R310). -/
structure LegalHec (hec : Word) (correctable uncorrectable : Bool) : Prop where
  reserved : hec &&& 0xFF00C0FC#32 = 0
  pos_lt : (getField hec 8 6).toNat < 40
  pos_zero : getField hec 0 2 ≠ 2 → getField hec 8 6 = 0
  synd_zero : getField hec 0 2 = 0 → getField hec 16 8 = 0
  correctable_iff : correctable = true ↔ getField hec 0 2 = 2
  uncorrectable_iff : uncorrectable = true ↔ getField hec 0 2 = 3

/-- What the trailer's registers can hold beside `RES_AAL5ST` and the CRC diagnostic (R44 to R46, R53, R201 to R208). -/
structure LegalTrailer (trl0 trl1 crcreg aal5st : Word) (crcBad : Bool) : Prop where
  pad_le : (getField aal5st 8 8).toNat ≤ 47
  no_trailer : aal5st.getLsbD 0 = false →
    trl0 = 0 ∧ trl1 = 0 ∧ crcreg = 0 ∧ getField aal5st 8 8 = 0 ∧ aal5st.getLsbD 1 = false
  crcok_iff : aal5st.getLsbD 0 = true → (aal5st.getLsbD 1 = true ↔ crcreg = 0xC704DD7B#32)
  crcBad_iff : crcBad = true ↔ aal5st.getLsbD 0 = true ∧ aal5st.getLsbD 1 = false

/-- What `RES_CELLS` can hold beside `RES_AAL5ST` (R46, R47). -/
structure LegalCells (cells aal5st : Word) : Prop where
  reserved : aal5st &&& 0xFFFF00F8#32 = 0
  cells_zero : aal5st.getLsbD 2 = false → cells = 0

/-- What `RES_ROUTE` and `RES_KEY` can hold (R48, R49, R118, R256). -/
structure LegalRoute (route key : Word) : Prop where
  reserved : route &&& 0xFFFFF0E0#32 = 0
  route_le : (getField route 0 4).toNat ≤ 10
  keyv_iff : route.getLsbD 4 = true ↔ getField route 0 4 = 2 ∨ getField route 0 4 = 9
  key_zero : route.getLsbD 4 = false → key = 0
  ipver_ip : getField route 0 4 = 8 → getField route 8 4 = 4 ∨ getField route 8 4 = 6
  ipver_else : getField route 0 4 ≠ 8 → getField route 8 4 = 0

/-- What the result registers hold while a command writes them: every clause of `Results.Legal` that does not speak of
`RES_STATUS`. -/
structure Results.Sound (r : Results) : Prop where
  diag : r.diag &&& 0xFFFFFFF0#32 = 0
  cls : r.cls &&& 0xFFFFFF88#32 = 0
  header : LegalHeader r.hdr0 r.hdr1
  hec : LegalHec r.hec r.hecCorrectable r.hecUncorrectable
  trailer : LegalTrailer r.trl0 r.trl1 r.crcreg r.aal5st r.crcBad
  cells : LegalCells r.cells r.aal5st
  route : LegalRoute r.route r.key
  short_no_route : r.tooShort = true → r.routeCode = 0

/-- The reserved bits of every result register are 0 when those of the eight registers that have any are (R54). -/
theorem reservedClear_of_sound (r : Results) (h : r.Sound) (hs : r.status &&& 0xFFFFFF0C#32 = 0) :
    r.ReservedClear := by
  intro n
  unfold Results.reg
  split
  case h_1 hn => simpa [definedBits, hn] using hs
  case h_2 hn => simpa [definedBits, hn] using h.diag
  case h_3 hn => simpa [definedBits, hn] using h.header.reserved0
  case h_4 hn => simpa [definedBits, hn] using h.header.reserved1
  case h_5 hn => simpa [definedBits, hn] using h.hec.reserved
  case h_6 hn => simpa [definedBits, hn] using h.cls
  case h_9 hn => simpa [definedBits, hn] using h.cells.reserved
  case h_11 hn => simpa [definedBits, hn] using h.route.reserved
  all_goals simp [definedBits, *]

/-- Sound results with a status of clear reserved bits are legal, when a bad command left nothing else (R38, R311). -/
theorem legal_of_sound (r : Results) (h : r.Sound) (hs : r.status &&& 0xFFFFFF0C#32 = 0)
    (hbad : r.badCmd = true → r = { Results.zero with status := r.status }) : r.Legal where
  reserved := reservedClear_of_sound r h hs
  route_le := h.route.route_le
  keyv_iff := h.route.keyv_iff
  key_zero := h.route.key_zero
  ipver_ip := h.route.ipver_ip
  ipver_else := h.route.ipver_else
  pos_lt := h.hec.pos_lt
  pos_zero := h.hec.pos_zero
  synd_zero := h.hec.synd_zero
  correctable_iff := h.hec.correctable_iff
  uncorrectable_iff := h.hec.uncorrectable_iff
  pad_le := h.trailer.pad_le
  no_trailer := h.trailer.no_trailer
  crcok_iff := h.trailer.crcok_iff
  crcBad_iff := h.trailer.crcBad_iff
  cells_zero := h.cells.cells_zero
  header_kind := h.header.kind
  gfc_zero := h.header.gfc_zero
  vpi_uni := h.header.vpi_uni
  short_no_route := h.short_no_route
  bad_only_status := hbad

/-- Cleared results are sound. -/
theorem sound_zero : Results.zero.Sound where
  diag := by decide
  cls := by decide
  header := by constructor <;> decide
  hec := by constructor <;> decide
  trailer := by constructor <;> decide
  cells := by constructor <;> decide
  route := by constructor <;> decide
  short_no_route := fun _ => by decide

/-- `RES_STATUS` is no part of soundness. -/
theorem Results.Sound.withStatus {r : Results} (h : r.Sound) (w : Word) : Results.Sound { r with status := w } :=
  { h with }

/-- Cleared results are legal (R60, R340). -/
theorem legal_zero : Results.zero.Legal :=
  legal_of_sound _ sound_zero (by decide) fun _ => rfl

/-- A bad command leaves legal results (R311). -/
theorem legal_badCommand (s : State) : (badCommand s).res.Legal :=
  legal_of_sound _ (sound_zero.withStatus _) (reserved_statusWord _ _) fun _ => rfl

end Sys2Proof.Machine
end

section
/-! PROOFS, the family of the state. Every part of the pseudocode keeps the results sound, so every command leaves legal
ones (spec/40_hec.md to spec/44_pipeline.md). -/

namespace Sys2Proof.Machine

/-! ### The shared operations -/

/-- The window registers are no part of soundness (R50 to R52). -/
theorem Results.Sound.setWindow {r : Results} (h : r.Sound) (w : Window) : (r.setWindow w).Sound :=
  { h with }

/-- Before a route is decided (R312, R256): no route, no key, and the command goes on. -/
structure Results.Unrouted (r : Results) : Prop where
  route : r.route = 0
  key : r.key = 0
  running : r.tooShort = false

theorem unrouted_zero : Results.zero.Unrouted := ⟨rfl, rfl, by decide⟩

/-- The classifier's result (R43, R180). -/
theorem Results.Sound.writeOam {r : Results} (h : r.Sound) (oam : Bool) : (writeOam oam r).Sound :=
  { h with
    cls := putField_and_eq_zero _ _ _ _ (putField_and_eq_zero _ _ _ _ h.cls (by decide)) (by decide) }

/-- The recorded AAL kind (R43, R241). -/
theorem Results.Sound.writeAale {r : Results} (h : r.Sound) (aal : AalKind) : (writeAale aal r).Sound :=
  { h with
    cls := putField_and_eq_zero _ _ _ _ (putField_and_eq_zero _ _ _ _ h.cls (by decide)) (by decide) }

/-- `raise TooShort` where no route is decided (R312). -/
theorem Results.Sound.raiseTooShort {r : Results} (h : r.Sound) (hr : r.route = 0) :
    (raiseTooShort r).results.Sound :=
  have other : ∀ i, i ≠ 0 → (Machine.raiseTooShort r).results.diag.getLsbD i = r.diag.getLsbD i := fun i hi => by
    simp [getLsbD_raiseTooShort, hi]
  { h with
    diag := putField_and_eq_zero _ _ _ _ h.diag (by decide)
    hec := by
      have hh := h.hec
      rwa [Results.hecCorrectable, Results.hecUncorrectable, ← other 1 (by decide), ← other 2 (by decide)] at hh
    trailer := by
      have ht := h.trailer
      rwa [Results.crcBad, ← other 3 (by decide)] at ht
    short_no_route := fun _ => by
      show getField r.route 0 4 = 0
      rw [hr]; decide }

/-! ### The header and its check -/

/-- `RES_HDR0` and `RES_HDR1` after a parse without a HEC byte (R40, R41, R171). -/
theorem legalHeader_words (ref : RefPoint) (b0 b1 b2 b3 : Byte) :
    LegalHeader (hdr0Word ref b1 b2 b3) (hdr1Word ref b0 b1) where
  reserved0 := by
    unfold hdr0Word
    repeat' apply putField_and_eq_zero
    all_goals decide
  reserved1 := by
    unfold hdr1Word
    repeat' apply putField_and_eq_zero
    all_goals decide
  kind := by
    simp only [hdr0Word, getLsbD_putField]
    cases ref <;> simp
  gfc_zero := by
    simp only [hdr0Word, hdr1Word, getLsbD_putField, getField_putField_same _ _ _ (show 12 + 4 ≤ 32 by decide)]
    cases ref <;> simp [headerGfc]
  vpi_uni := by
    have hv : getField (hdr1Word ref b0 b1) 0 12 = headerVpi ref b0 b1 :=
      (getField_putField_other _ _ _ _ _ (.inl (by decide))).trans (getField_putField_same _ _ _ (by decide))
    simp only [hdr0Word, hv, getLsbD_putField]
    cases ref with
    | uni =>
      intro _
      rw [headerVpi, BitVec.toNat_setWidth]
      exact lt_of_le_of_lt (Nat.mod_le _ _) (BitVec.isLt _)
    | nni => simp

theorem Results.Sound.writeHeader {r : Results} (h : r.Sound) (s : State) (ref : RefPoint) :
    (writeHeader s ref r).Sound :=
  { h with header := legalHeader_words ref _ _ _ _ }

/-- The HEC byte lies beside every field of the header (R41, R174). -/
theorem Results.Sound.writeHecByte {r : Results} (h : r.Sound) (s : State) : (writeHecByte s r).Sound :=
  have beside : ∀ lo w, lo + w ≤ 16 → getField (Machine.writeHecByte s r).hdr1 lo w = getField r.hdr1 lo w := by
    intro lo w hw
    rw [Machine.writeHecByte, getField_putField_other _ _ _ _ _ (.inl (by omega)),
      getField_putField_other _ _ _ _ _ (.inl hw)]
  { h with
    header :=
      { h.header with
        reserved1 :=
          putField_and_eq_zero _ _ _ _ (putField_and_eq_zero _ _ _ _ h.header.reserved1 (by decide)) (by decide)
        gfc_zero := by rw [beside 12 4 (by decide)]; exact h.header.gfc_zero
        vpi_uni := by rw [beside 0 12 (by decide)]; exact h.header.vpi_uni } }

/-- `RES_HEC` of a result is its three fields, written one by one (R42, R140). -/
theorem hecWord_eq_putField (c : HecResult) (y : Byte) :
    hecWord c y = putField (putField (putField 0 16 y) 0 c.code) 8 c.posField := by
  have h := congrArg Results.hec (hec_writeHec_clear (c, y) Results.zero rfl rfl)
  cases c <;> exact h.symm

/-- `RES_HEC` beside its two diagnostics after a check (R42, R310). -/
theorem legalHec_words (c : HecResult) (y : Byte) :
    LegalHec (hecWord c y) ((hecDiag c).getLsbD 1) ((hecDiag c).getLsbD 2) := by
  have hstat : getField (hecWord c y) 0 2 = c.code := by
    rw [hecWord_eq_putField, getField_putField_other _ _ _ _ _ (.inl (by decide)),
      getField_putField_same _ _ _ (by decide)]
  have hpos : getField (hecWord c y) 8 6 = c.posField := by
    rw [hecWord_eq_putField, getField_putField_same _ _ _ (by decide)]
  exact {
    reserved := by
      rw [hecWord_eq_putField]
      repeat' apply putField_and_eq_zero
      all_goals decide
    pos_lt := by
      rw [hpos]
      cases c with
      | correctablePosition p => exact lt_of_le_of_lt (Nat.mod_le _ _) p.isLt
      | _ => decide
    pos_zero := by rw [hstat, hpos]; cases c <;> simp [HecResult.code, HecResult.posField]
    synd_zero := by rw [hstat]; cases c <;> simp [HecResult.code]
    correctable_iff := by rw [hstat]; cases c <;> simp [HecResult.code, hecDiag]
    uncorrectable_iff := by rw [hstat]; cases c <;> simp [HecResult.code, hecDiag] }

/-- A check reports by the two HEC diagnostics alone (R39, R140). -/
theorem hecDiag_bits (c : HecResult) :
    hecDiag c &&& 0xFFFFFFF0#32 = 0 ∧ (hecDiag c).getLsbD 0 = false ∧ (hecDiag c).getLsbD 3 = false := by
  cases c <;> simp [hecDiag]

/-- A check on results that hold no diagnostic yet (R140, R174). -/
theorem Results.Sound.writeHec {r : Results} (h : r.Sound) (c : HecResult × Byte) (hec : r.hec = 0)
    (diag : r.diag = 0) : (writeHec c r).Sound := by
  rw [hec_writeHec_clear c r hec diag]
  obtain ⟨reserved, hshort, hcrc⟩ := hecDiag_bits c.1
  have hcrc0 : r.crcBad = (hecDiag c.1).getLsbD 3 := by rw [hcrc, Results.crcBad, diag]; decide
  exact { h with
    diag := reserved
    hec := legalHec_words c.1 c.2
    trailer := by
      have ht := h.trailer
      rwa [hcrc0] at ht
    short_no_route := fun ht => by rw [Results.tooShort, hshort] at ht; cases ht }

/-- The parse keeps cleared results sound, short or not (R170 to R176). -/
theorem sound_parseHeader (s : State) (ref : RefPoint) (hecp : Bool) :
    (parseHeader s ref hecp Results.zero).results.Sound := by
  have hw := sound_zero.writeHeader s ref
  unfold parseHeader
  split
  · exact sound_zero.raiseTooShort rfl
  · cases hecp with
    | true => exact (hw.writeHecByte s).writeHec _ rfl rfl
    | false => exact hw

/-- The parse decides no route (R170, R280). -/
theorem unrouted_parsedResults (ref : RefPoint) (hecp : Bool) (h : BitVec 40) :
    (parsedResults ref hecp h).Unrouted := by
  cases hecp with
  | true => exact ⟨rfl, rfl, (hecDiag_bits _).2.1⟩
  | false => exact ⟨rfl, rfl, unrouted_zero.running⟩

/-! ### The trailer and the cell count -/

/-- The cell count writes `RES_CELLS` and its flag (R46, R47, R206). -/
theorem Results.Sound.cellCount {r : Results} (h : r.Sound) (s : State) : (cellCount s r).Sound := by
  unfold Machine.cellCount
  split
  · have flag : ∀ i, i ≠ 2 → (putField r.aal5st 2 (bit true)).getLsbD i = r.aal5st.getLsbD i := fun i hi => by
      simp [getLsbD_putField_flag, hi]
    have pad : getField (putField r.aal5st 2 (bit true)) 8 8 = getField r.aal5st 8 8 :=
      getField_putField_other _ _ _ _ _ (.inr (by decide))
    exact { h with
      trailer := by
        constructor <;> simp only [pad, flag 0 (by decide), flag 1 (by decide)]
        exacts [h.trailer.pad_le, h.trailer.no_trailer, h.trailer.crcok_iff, h.trailer.crcBad_iff]
      cells :=
        { reserved := putField_and_eq_zero _ _ _ _ h.cells.reserved (by decide)
          cells_zero := fun hv => by rw [getLsbD_putField_flag _ _ _ (by decide)] at hv; simp at hv } }
  · exact h

/-- The cell count raises no diagnostic (R206). -/
theorem diag_cellCount (s : State) (r : Results) : (cellCount s r).diag = r.diag := by
  unfold cellCount
  split <;> rfl

theorem Results.Unrouted.cellCount {r : Results} (h : r.Unrouted) (s : State) : (cellCount s r).Unrouted := by
  unfold Machine.cellCount
  split
  · exact ⟨h.route, h.key, h.running⟩
  · exact h

/-- `RES_AAL5ST` with a trailer of `pad` padding bytes, over the cell count's flag in `a` (R46, R202, R204). -/
def trailerStatus (a : Word) (pad : Nat) (ok : Bool) : Word :=
  putField (putField (putField a 0 (bit true)) 8 (BitVec.ofNat 8 pad)) 1 (bit ok)

theorem trlp_trailerStatus (a : Word) (pad : Nat) (ok : Bool) : (trailerStatus a pad ok).getLsbD 0 = true := by
  simp only [trailerStatus, getLsbD_putField]
  simp

theorem crcok_trailerStatus (a : Word) (pad : Nat) (ok : Bool) : (trailerStatus a pad ok).getLsbD 1 = ok := by
  simp only [trailerStatus, getLsbD_putField]
  simp

theorem cellsv_trailerStatus (a : Word) (pad : Nat) (ok : Bool) :
    (trailerStatus a pad ok).getLsbD 2 = a.getLsbD 2 := by
  simp only [trailerStatus, getLsbD_putField]
  simp

theorem pad_trailerStatus (a : Word) (pad : Nat) (ok : Bool) :
    getField (trailerStatus a pad ok) 8 8 = BitVec.ofNat 8 pad := by
  rw [trailerStatus, getField_putField_other _ _ _ _ _ (.inr (by decide)), getField_putField_same _ _ _ (by decide)]

theorem reserved_trailerStatus (a : Word) (pad : Nat) (ok : Bool) (ha : a &&& 0xFFFF00F8#32 = 0) :
    trailerStatus a pad ok &&& 0xFFFF00F8#32 = 0 :=
  putField_and_eq_zero _ _ _ _
    (putField_and_eq_zero _ _ _ _ (putField_and_eq_zero _ _ _ _ ha (by decide)) (by decide)) (by decide)

/-- The trailer's registers with a trailer (R201 to R204): the check's verdict and its diagnostic agree. -/
theorem legalTrailer_words (trl0 trl1 c a : Word) (pad : Nat) (hpad : pad ≤ 47) :
    LegalTrailer trl0 trl1 c (trailerStatus a pad (c == Config.crcResidue)) (c != Config.crcResidue) where
  pad_le := by
    rw [pad_trailerStatus]
    exact le_trans (Nat.mod_le _ _) hpad
  no_trailer := fun h => by rw [trlp_trailerStatus] at h; cases h
  crcok_iff := fun _ => by rw [crcok_trailerStatus, beq_iff_eq]
  crcBad_iff := by rw [trlp_trailerStatus, crcok_trailerStatus]; simp

/-- `RES_DIAG` after a CRC check over `d` (R204, R313). -/
def crcDiag (c d : Word) : Word := if c = Config.crcResidue then d else putField d 3 (bit true)

/-- The CRC diagnostic is the only one that the check touches. -/
theorem getLsbD_crcDiag (c d : Word) (i : Nat) :
    (crcDiag c d).getLsbD i = (d.getLsbD i || (i == 3 && c != Config.crcResidue)) := by
  unfold crcDiag
  split
  · next hc => simp [hc]
  · next hc => rw [getLsbD_putField_flag _ _ _ (by decide), bne_iff_ne.mpr hc, Bool.and_true]

theorem reserved_crcDiag (c d : Word) (hd : d &&& 0xFFFFFFF0#32 = 0) : crcDiag c d &&& 0xFFFFFFF0#32 = 0 := by
  unfold crcDiag
  split
  · exact hd
  · exact putField_and_eq_zero _ _ _ _ hd (by decide)

/-- The trailer and its CRC check write the trailer's registers, the status of the trailer and one diagnostic (R202,
R204). -/
theorem writeCrc_writeTrailer (s : State) (c : Word) (r : Results) :
    writeCrc c (writeTrailer s r) = { r with
      trl0 := (writeTrailer s r).trl0
      trl1 := (writeTrailer s r).trl1
      crcreg := c
      aal5st := trailerStatus r.aal5st s.trailerPad (c == Config.crcResidue)
      diag := crcDiag c r.diag } := by
  unfold writeCrc crcDiag
  split <;> rfl

/-- The padding of a trailer that is present (R201). -/
theorem TrailerGuards.trailerPad_le {s : State} {aal : AalKind} (hg : TrailerGuards s aal) : s.trailerPad ≤ 47 := by
  obtain ⟨_, _, g3, _, g5⟩ := hg
  rw [State.trailerPad, trailerLength_eq s (by omega), Config.trailerBytes]
  omega

/-- The trailer function on results without a trailer (R201 to R204, R208). -/
theorem Results.Sound.aal5Results {r : Results} (h : r.Sound) (s : State) (aal : AalKind) (hcrc : r.crcBad = false) :
    (aal5Results s aal r).Sound := by
  by_cases hg : TrailerGuards s aal
  · have other : ∀ i, i ≠ 3 → (crcDiag s.pduCrc r.diag).getLsbD i = r.diag.getLsbD i := fun i hi => by
      simp [getLsbD_crcDiag, hi]
    have verdict : (crcDiag s.pduCrc r.diag).getLsbD 3 = (s.pduCrc != Config.crcResidue) := by
      rw [getLsbD_crcDiag, show r.diag.getLsbD 3 = false from hcrc]
      rfl
    rw [Machine.aal5Results, if_pos ((trailerPresent_iff s aal).mpr hg), writeCrc_writeTrailer]
    exact { h with
      diag := reserved_crcDiag _ _ h.diag
      hec := by
        have hh := h.hec
        rwa [Results.hecCorrectable, Results.hecUncorrectable, ← other 1 (by decide), ← other 2 (by decide)] at hh
      trailer := by
        rw [Results.crcBad, verdict]
        exact legalTrailer_words _ _ _ _ _ hg.trailerPad_le
      cells :=
        { reserved := reserved_trailerStatus _ _ _ h.cells.reserved
          cells_zero := by rw [cellsv_trailerStatus]; exact h.cells.cells_zero }
      short_no_route := fun ht => h.short_no_route ((other 0 (by decide)).symm.trans ht) }
  · rwa [aal5Results_of_absent s aal r hg]

theorem Results.Unrouted.aal5Results {r : Results} (h : r.Unrouted) (s : State) (aal : AalKind) :
    (aal5Results s aal r).Unrouted := by
  unfold Machine.aal5Results
  split
  · rw [writeCrc_writeTrailer]
    refine ⟨h.route, h.key, ?_⟩
    rw [Results.tooShort, getLsbD_crcDiag, show r.diag.getLsbD 0 = false from h.running]
    rfl
  · exact h

/-! ### The dispatch -/

/-- The words that a dispatch leaves in `RES_ROUTE`, with a key for the table routes alone (R118, R256). -/
theorem legalRoute_words (word key : Word) (hw : word ∈ routeWords)
    (hk : word ≠ 0x12 → word ≠ 0x19 → key = 0) : LegalRoute word key := by
  have key_zero : word.getLsbD 4 = false → key = 0 := fun hv =>
    hk (by rintro rfl; exact absurd hv (by decide)) (by rintro rfl; exact absurd hv (by decide))
  simp only [routeWords, List.mem_cons, List.not_mem_nil, or_false] at hw
  rcases hw with rfl | rfl | rfl | rfl | rfl | rfl | rfl | rfl | rfl | rfl | rfl
  all_goals exact ⟨by decide, by decide, by decide, key_zero, by decide, by decide⟩

/-- `Dispatch` on results that hold no route (R241 to R256, R312). -/
theorem Results.Sound.dispatchPayload {r : Results} (h : r.Sound) (u : r.Unrouted) (s : State) (noph hintv : Bool)
    (aal : AalKind) (w : Window) : (dispatchPayload s noph hintv aal w r).results.Sound := by
  have ha := h.writeAale aal
  rcases dispatchPayload_cases s noph hintv aal w r u.route u.key with ⟨_, hf⟩ | ⟨_, ⟨word, key, w', hf, hw, hk, _⟩⟩
  · rw [hf]
    exact ha.raiseTooShort u.route
  · rw [hf]
    refine Results.Sound.setWindow ?_ w'
    exact { ha with
      route := legalRoute_words word key hw hk
      short_no_route := fun ht => by
        have hr : r.tooShort = true := ht
        rw [u.running] at hr; cases hr }

/-! ### Every command keeps the results legal -/

/-- The results of every command's body are sound. -/
theorem sound_bodyOf (i : Instr) (s : State) : (bodyOf i s Results.zero).results.Sound := by
  cases i with
  | hecCheck =>
    show (hecCheckBody s Results.zero).results.Sound
    unfold hecCheckBody
    split
    · exact sound_zero.raiseTooShort rfl
    · exact sound_zero.writeHec _ rfl rfl
  | hdrParse ref hecp => exact sound_parseHeader s ref hecp
  | oamClassify => exact sound_zero.writeOam _
  | aal5Trailer aal => exact (sound_zero.aal5Results s aal (by decide)).setWindow _
  | cellCount => exact sound_zero.cellCount s
  | dispatch noph hintv aal => exact sound_zero.dispatchPayload unrouted_zero s noph hintv aal _
  | processCell ref hecp noph hintv aal =>
    have hp := sound_parseHeader s ref hecp
    show (processCellBody ref hecp noph hintv aal s Results.zero).results.Sound
    unfold processCellBody
    by_cases hs : s.capLen < 4 + hecp.toNat
    · rw [parseHeader_of_short s ref hecp _ hs] at hp ⊢
      exact hp
    · rw [parseHeader_of_captured s ref hecp (Nat.le_of_not_lt hs)] at hp ⊢
      have hu := unrouted_parsedResults ref hecp s.headerNumber
      exact (Results.Sound.writeOam hp _).dispatchPayload ⟨hu.route, hu.key, hu.running⟩ _ _ _ _ _
  | processPdu noph hintv aal =>
    have hc : (cellCount s Results.zero).crcBad = false := by
      rw [Results.crcBad, diag_cellCount]
      decide
    exact ((sound_zero.cellCount s).aal5Results s aal hc).dispatchPayload
      ((unrouted_zero.cellCount s).aal5Results s aal) s noph hintv aal _

/-- Every command leaves legal results (R54, R59, R311). -/
theorem legal_runCommand (i : Instr) (s : State) : (runCommand s (bodyOf i)).res.Legal := by
  have hstatus := status_runCommand s (bodyOf i)
  by_cases hf : s.Fits
  · have hgood : ¬ Config.maxBuf < s.capLen := Nat.not_lt.mpr hf
    refine legal_of_sound _ ?_ (by rw [hstatus]; exact reserved_statusWord _ _) (fun hbad => ?_)
    · rw [runCommand_of_fits s _ hf]
      exact (sound_bodyOf i s).withStatus _
    · rw [Results.badCmd, hstatus, badCmd_statusWord, decide_eq_false hgood] at hbad
      cases hbad
  · rw [runCommand_of_not_fits s _ hf, ← badCommand_eq]
    exact legal_badCommand s

end Sys2Proof.Machine
end

section
/-! PROOFS, the family of the state. The invariant along a step: what each event does to `DATA` and to the result
registers. -/

namespace Sys2Proof.Machine

/-- The invariant speaks of `DATA` and the result registers alone. -/
theorem State.Inv.congr {s t : State} (h : s.Inv) (hd : t.data = s.data) (hr : t.res = s.res) : t.Inv :=
  ⟨hd ▸ h.canonical, hd ▸ h.inWindow, hr ▸ h.legal⟩

/-- A host write to any register but `REQ_CMD` changes request registers alone (R78). -/
theorem storeReg_frame (s : State) (n : RegNum) (v : Word) :
    (s.storeReg n v).data = s.data ∧ (s.storeReg n v).res = s.res := by
  unfold State.storeReg
  split <;> exact ⟨rfl, rfl⟩

/-- A write to `REQ_CMD` leaves `DATA` as it was and legal results, whatever the word (R59, R72, R311). -/
theorem startCommand_data_legal (s t : State) (w : Word) (h : startCommand s w = .next t) :
    t.data = s.data ∧ t.res.Legal := by
  cases hd : decodeWord w with
  | instr i =>
    rw [startCommand_instr s w i hd] at h
    rw [eq_of_exec i _ t h]
    exact ⟨(sameOutsideResults_runCommand _ _).data, legal_runCommand i _⟩
  | bad b =>
    rw [startCommand_bad s w b hd] at h
    injection h with h
    rw [← h]
    exact ⟨rfl, legal_badCommand _⟩

/-- Every event keeps the invariant (R54, R57, R77, R78, R340). -/
theorem inv_applyEvent (s t : State) (e : Event) (hs : s.Inv) (h : applyEvent s e = .next t) : t.Inv := by
  cases e with
  | writeReg n v =>
    rw [applyEvent] at h
    split at h
    · obtain ⟨hd, hl⟩ := startCommand_data_legal s t v h
      exact ⟨hd ▸ hs.canonical, hd ▸ hs.inWindow, hl⟩
    · injection h with h
      obtain ⟨hd, hr⟩ := storeReg_frame s n v
      exact h ▸ hs.congr hd hr
  | readReg n =>
    injection h with h
    exact h ▸ hs.congr rfl rfl
  | writeData i b =>
    rw [applyEvent] at h
    split at h
    · next hi =>
      injection h with h
      exact h ▸ ⟨wf_write _ _ _ hs.canonical, inWindow_write _ _ _ hi hs.inWindow, hs.legal⟩
    · cases h
  | readData i =>
    injection h with h
    exact h ▸ hs.congr rfl rfl
  | reset =>
    injection h with h
    exact h ▸ ⟨reset_data_wf.1, reset_data_wf.2, legal_zero⟩

/-- Settles O51: a step is one event or none, and every event keeps the invariant. -/
theorem stepKeepsTheInvariant : Obligations.StepKeepsTheInvariant := by
  intro s t hs h
  cases hp : s.pending with
  | nil =>
    rw [step_idle s hp] at h
    injection h with h
    exact h ▸ hs
  | cons e es =>
    rw [step_event s e es hp] at h
    exact inv_applyEvent (s.setPending es) t e (hs.congr rfl rfl) h

end Sys2Proof.Machine
end

section
/-! PROOFS, the family of the state. The register map, the host's accesses to `DATA` outside the window, and the end of
every command (spec/10_state.md R34 to R54, R59, spec/20_memory.md R77 to R79). -/

namespace Sys2Proof.Machine

/-! ### The register map -/

/-- A result register reads as it is held, but for its reserved bits (R54). -/
theorem readReg_result (s : State) (n : RegNum) (h : 16 ≤ n.toNat) :
    s.readReg n = s.res.reg n &&& definedBits n := by
  unfold State.readReg
  split
  case h_5 => rfl
  all_goals omega

/-- No bit of a reserved number is defined (R54, R79). -/
theorem readReg_reserved (s : State) (n : RegNum) (h4 : 4 ≤ n.toNat) (h15 : n.toNat ≤ 15) : s.readReg n = 0 := by
  have hn : definedBits n = 0 := by
    unfold definedBits
    split
    case h_17 => rfl
    all_goals omega
  unfold State.readReg
  split
  case h_5 => rw [hn]; exact BitVec.and_zero
  all_goals omega

/-- A write to a reserved number changes nothing (R54). -/
theorem storeReg_reserved (s : State) (n : RegNum) (v : Word) (h4 : 4 ≤ n.toNat) : s.storeReg n v = s := by
  unfold State.storeReg
  split
  case h_4 => rfl
  all_goals omega

/-- Every result register reads 0 when all are cleared. -/
theorem reg_zero (n : RegNum) : Results.zero.reg n = 0 := by
  unfold Results.reg
  split <;> rfl

/-- Every request register is read by its number (R34 to R37). -/
theorem readReg_of_mem_requests (s : State) (p : RegNum × Word) (h : p ∈ s.req.byNumber) : s.readReg p.1 = p.2 := by
  simp only [Request.byNumber, List.mem_cons, List.not_mem_nil, or_false] at h
  rcases h with rfl | rfl | rfl | rfl <;> rfl

/-- Every result register has its number (R38 to R53). -/
theorem reg_of_mem_byNumber (r : Results) (p : RegNum × Word) (h : p ∈ r.byNumber) :
    16 ≤ p.1.toNat ∧ r.reg p.1 = p.2 := by
  simp only [Results.byNumber, List.cons_append, List.nil_append, List.mem_cons, List.not_mem_nil, or_false] at h
  rcases h with rfl | rfl | rfl | rfl | rfl | rfl | rfl | rfl | rfl | rfl | rfl | rfl | rfl | rfl | rfl | rfl
  all_goals exact ⟨by simp, rfl⟩

/-- Where the reserved bits are held 0, a result register reads as it is held (R54; log 18). -/
theorem readReg_of_mem_results (s : State) (hs : s.res.ReservedClear) (p : RegNum × Word)
    (h : p ∈ s.res.byNumber) : s.readReg p.1 = p.2 := by
  obtain ⟨h16, hp⟩ := reg_of_mem_byNumber s.res p h
  rw [readReg_result s p.1 h16, and_eq_self_of_reserved_zero _ _ (hs p.1), hp]

/-- The reserved bits of the tables are those that the map does not define (R38 to R43, R46, R48). -/
theorem definedBits_and_reservedBits (p : RegNum × Word) (h : p ∈ reservedBits) :
    16 ≤ p.1.toNat ∧ definedBits p.1 &&& p.2 = 0 := by
  simp only [reservedBits, List.mem_cons, List.not_mem_nil, or_false] at h
  rcases h with rfl | rfl | rfl | rfl | rfl | rfl | rfl | rfl
  all_goals exact ⟨by decide, by decide⟩

/-- Settles O5: cleared registers read 0 under every number. -/
theorem resetClearsEveryRegister : Obligations.ResetClearsEveryRegister := by
  refine ⟨fun n => ?_, rfl, rfl, rfl⟩
  unfold State.readReg
  split
  case h_5 =>
    show Results.zero.reg n &&& definedBits n = 0
    rw [reg_zero]
    exact BitVec.zero_and
  all_goals rfl

/-- Settles O53: the read returns what the map holds under the number, and the invariant makes the mask of the reserved
bits the identity. -/
theorem registerReadsReturnTheNamedRegister : Obligations.RegisterReadsReturnTheNamedRegister := by
  intro s es
  refine ⟨fun p hp h => ?_, fun hs p hp h => ?_⟩
  · rw [step_readReg s p.1 es h, readReg_of_mem_requests s p hp]
    rfl
  · rw [step_readReg s p.1 es h, readReg_of_mem_results s hs.legal.reserved p hp]
    rfl

/-- Settles O7: each read goes through the mask of the defined bits, and a word with a reserved bit decodes to no
command. -/
theorem reservedNumbersAndBits : Obligations.ReservedNumbersAndBits := by
  intro s es v
  refine ⟨fun n h4 h15 => ⟨readReg_reserved s n h4 h15, fun h => ?_⟩, fun n h16 => ?_, fun p hp => ?_, fun h hv => ?_⟩
  · have hn : n ≠ 0 := by rintro rfl; exact absurd h4 (by decide)
    rw [step_store s n v es hn h, storeReg_reserved _ n v h4]
    rfl
  · rw [readReg_result s n h16, BitVec.and_assoc, BitVec.and_not_self]
    exact BitVec.and_zero
  · obtain ⟨h16, hm⟩ := definedBits_and_reservedBits p hp
    rw [readReg_result s p.1 h16, BitVec.and_assoc, hm]
    exact BitVec.and_zero
  · refine ⟨badCommand ((s.setPending es).setCmd v), ?_, rfl, badCmd_statusWord _ _⟩
    rw [step_command s v es h, startCommand_bad _ v _ (decodeWord_of_reservedBits v hv)]

/-! ### The host's accesses outside the window, and the commands -/

/-- Settles O10: the step is the event, which faults there. -/
theorem dataWriteOutsideTheWindowFaults : Obligations.DataWriteOutsideTheWindowFaults :=
  fun s es i b hi h => step_writeData_absent s i b es hi h

/-- Settles O54: the byte is the free value of the read's number and the index. -/
theorem dataReadOutsideTheWindowReturnsSomeByte : Obligations.DataReadOutsideTheWindowReturnsSomeByte := by
  intro s es i hi h
  refine ⟨Config.absentByte s.returned.length i, ?_⟩
  rw [step_readData s i es h, hostByte_of_le s i hi]
  rfl

/-- Settles O11: the step stores the word, which is then decoded. -/
theorem stepRunsTheDecodedCommand : Obligations.StepRunsTheDecodedCommand := by
  intro s es w i h hd
  rw [step_command s w es h, startCommand_instr _ w i hd]
  rfl

/-- Settles O45: every command is its body run as a command, whose status is the status word. -/
theorem everyCommandCompletes : Obligations.EveryCommandCompletes := by
  intro s i
  have hstatus := status_runCommand s (bodyOf i)
  refine ⟨_, exec_eq_runCommand i s, ?_, ?_, ?_⟩
  · rw [Results.done, hstatus, done_statusWord]
  · rw [Results.lastOp, hstatus, lastOp_statusWord]
    rfl
  · rw [Results.badCmd, hstatus, badCmd_statusWord, decide_eq_true_iff, State.Fits, Nat.not_le]

end Sys2Proof.Machine
end

section
/-! PROOFS, the family of the state. What a command reads: the request registers and the bytes of `DATA` below
`REQ_CAPLEN` (spec/10_state.md R58, spec/20_memory.md R73). -/

namespace Sys2Proof.Machine

/-- Two states that give a command the same inputs (R58): equal request registers, equal captured bytes. -/
structure SameInputs (s s' : State) : Prop where
  req : s'.req = s.req
  byte : ∀ k, k < s.capLen → s'.dataByte k = s.dataByte k

/-! ### The operands -/

section
variable {s s' : State} (h : SameInputs s s')
include h

theorem SameInputs.capLen : s'.capLen = s.capLen := by rw [State.capLen, h.req, State.capLen]

theorem SameInputs.repLen : s'.repLen = s.repLen := by rw [State.repLen, h.req, State.repLen]

theorem SameInputs.wholeWindow : s'.wholeWindow = s.wholeWindow := by
  rw [State.wholeWindow, h.capLen, h.repLen, State.wholeWindow]

theorem SameInputs.cellWindow (hl : Nat) : s'.cellWindow hl = s.cellWindow hl := by
  rw [State.cellWindow, h.capLen, h.repLen, State.cellWindow]

theorem SameInputs.dataSlice (off len : Nat) (hw : off + len ≤ s.capLen) :
    s'.dataSlice off len = s.dataSlice off len :=
  dataSlice_congr _ _ _ _ _ fun _ _ => h.byte _ (by omega)

theorem SameInputs.be16 (i : Nat) (hi : i + 2 ≤ s.capLen) : s'.be16 i = s.be16 i := by
  rw [State.be16, h.byte i (by omega), h.byte (i + 1) (by omega), State.be16]

theorem SameInputs.be32 (i : Nat) (hi : i + 4 ≤ s.capLen) : s'.be32 i = s.be32 i := by
  rw [State.be32, h.byte i (by omega), h.byte (i + 1) (by omega), h.byte (i + 2) (by omega),
    h.byte (i + 3) (by omega), State.be32]

/-! ### The header -/

theorem SameInputs.hecOfData (h5 : 5 ≤ s.capLen) : s'.hecOfData = s.hecOfData := by
  rw [State.hecOfData, h.byte 0 (by omega), h.byte 1 (by omega), h.byte 2 (by omega), h.byte 3 (by omega),
    h.byte 4 (by omega), State.hecOfData]

theorem SameInputs.hecCheckBody (r : Results) : hecCheckBody s' r = hecCheckBody s r := by
  rw [Machine.hecCheckBody, Machine.hecCheckBody, h.capLen]
  split
  · rfl
  · next h5 => rw [h.hecOfData (by omega)]

theorem SameInputs.parseHeader (ref : RefPoint) (hecp : Bool) (r : Results) :
    parseHeader s' ref hecp r = parseHeader s ref hecp r := by
  by_cases hs : s.capLen < 4 + hecp.toNat
  · rw [parseHeader_of_short s ref hecp r hs, parseHeader_of_short s' ref hecp r (h.capLen ▸ hs)]
  · have hw : writeHeader s' ref r = writeHeader s ref r := by
      rw [writeHeader, h.byte 0 (by omega), h.byte 1 (by omega), h.byte 2 (by omega), h.byte 3 (by omega), writeHeader]
    rw [Machine.parseHeader, Machine.parseHeader, h.capLen, hw]
    cases hecp with
    | true =>
      have h5 : 5 ≤ s.capLen := Nat.le_of_not_lt hs
      rw [h.hecOfData h5, writeHecByte, h.byte 4 h5, writeHecByte]
    | false => rfl

/-! ### The trailer -/

theorem SameInputs.lengthField (h8 : 8 ≤ s.capLen) : s'.lengthField = s.lengthField := by
  rw [State.lengthField, h.capLen, h.byte _ (by omega), h.byte _ (by omega), State.lengthField]

theorem SameInputs.trailerGuards (aal : AalKind) (hg : TrailerGuards s aal) : TrailerGuards s' aal := by
  have hl := h.lengthField hg.g3
  constructor
  · exact hg.g1
  · rw [h.capLen, h.repLen]; exact hg.g2
  · rw [h.capLen]; exact hg.g3
  · rw [h.capLen, hl]; exact hg.g4
  · rw [h.capLen, hl]; exact hg.g5

theorem SameInputs.symm : SameInputs s' s := ⟨h.req.symm, fun k hk => (h.byte k (h.capLen ▸ hk)).symm⟩

theorem SameInputs.trailerGuards_iff (aal : AalKind) : TrailerGuards s' aal ↔ TrailerGuards s aal :=
  ⟨h.symm.trailerGuards aal, h.trailerGuards aal⟩

theorem SameInputs.aal5Window (aal : AalKind) : aal5Window s' aal = aal5Window s aal := by
  by_cases hg : TrailerGuards s aal
  · rw [aal5Window_of_present s aal hg, aal5Window_of_present s' aal (h.trailerGuards aal hg), h.lengthField hg.g3]
  · rw [aal5Window_of_absent s aal hg, aal5Window_of_absent s' aal (mt (h.trailerGuards_iff aal).mp hg),
      h.wholeWindow]

theorem SameInputs.aal5Results (aal : AalKind) (r : Results) : aal5Results s' aal r = aal5Results s aal r := by
  by_cases hg : TrailerGuards s aal
  · have h8 := hg.g3
    have hlen : s'.trailerLength = s.trailerLength := by
      rw [State.trailerLength, h.capLen, h.be16 _ (by omega), State.trailerLength]
    have hpad : s'.trailerPad = s.trailerPad := by
      rw [State.trailerPad, h.capLen, hlen, State.trailerPad]
    have hcrc : s'.pduCrc = s.pduCrc := by
      rw [State.pduCrc, h.capLen, h.dataSlice 0 _ (by omega), State.pduCrc]
    have hw : writeTrailer s' r = writeTrailer s r := by
      rw [writeTrailer, h.capLen, hpad, h.byte _ (by omega), h.byte _ (by omega), h.be16 _ (by omega),
        h.be32 _ (by omega), writeTrailer]
    rw [Machine.aal5Results, Machine.aal5Results, if_pos ((trailerPresent_iff s aal).mpr hg),
      if_pos ((trailerPresent_iff s' aal).mpr (h.trailerGuards aal hg)), hcrc, hw]
  · rw [aal5Results_of_absent s aal r hg, aal5Results_of_absent s' aal r (mt (h.trailerGuards_iff aal).mp hg)]

theorem SameInputs.cellCount (r : Results) : cellCount s' r = cellCount s r := by
  rw [Machine.cellCount, h.repLen, Machine.cellCount]

/-! ### The dispatch -/

theorem SameInputs.tableAccepts (table : Word → List Byte → Bool) (hintv : Bool) (w : Window)
    (hw : w.off + w.len ≤ s.capLen) : tableAccepts table s' hintv w = tableAccepts table s hintv w := by
  rw [Machine.tableAccepts, State.hint, h.req, State.windowBytes, h.dataSlice _ _ hw]
  rfl

theorem SameInputs.sniff (w : Window) (r : Results) (hw : w.off + w.len ≤ s.capLen) (h8 : 8 ≤ w.len) :
    sniff s' w r = sniff s w r := by
  have hat : s'.sniffAt w.off = s.sniffAt w.off := by
    rw [State.sniffAt, h.byte w.off (by omega), h.byte (w.off + 1) (by omega), h.byte (w.off + 2) (by omega),
      h.byte (w.off + 3) (by omega), h.byte (w.off + 4) (by omega), h.byte (w.off + 5) (by omega),
      h.byte (w.off + 6) (by omega), State.sniffAt]
  rw [Machine.sniff, hat, h.byte w.off (by omega), Machine.sniff]

theorem SameInputs.dispatchAal5 (hintv : Bool) (w : Window) (r : Results) (hw : w.off + w.len ≤ s.capLen) :
    dispatchAal5 s' hintv w r = dispatchAal5 s hintv w r := by
  rw [Machine.dispatchAal5, Machine.dispatchAal5, h.tableAccepts _ _ _ hw, h.req]
  by_cases h8 : Config.sniffMinLen ≤ w.len
  · rw [h.sniff w r hw h8]
  · rw [if_neg h8, if_neg h8]

theorem SameInputs.dispatchAal2Table (hintv : Bool) (w : Window) (r : Results) (hw : w.off + w.len ≤ s.capLen) :
    dispatchAal2Table s' hintv w r = dispatchAal2Table s hintv w r := by
  rw [Machine.dispatchAal2Table, h.tableAccepts _ _ _ hw, h.req, Machine.dispatchAal2Table]

theorem SameInputs.dispatchAal2 (noph hintv : Bool) (w : Window) (r : Results) (hw : w.off + w.len ≤ s.capLen) :
    dispatchAal2 s' noph hintv w r = dispatchAal2 s noph hintv w r := by
  rw [Machine.dispatchAal2, Machine.dispatchAal2, h.dispatchAal2Table hintv w r hw]
  by_cases h4 : w.len < Config.aal2SubhdrBytes
  · rw [if_pos h4, if_pos h4]
  · have hstrip : (w.strip Config.aal2SubhdrBytes).off + (w.strip Config.aal2SubhdrBytes).len ≤ s.capLen := by
      simp only [Window.strip]
      omega
    rw [h.dispatchAal2Table hintv _ r hstrip]

theorem SameInputs.dispatchPayload (noph hintv : Bool) (aal : AalKind) (w : Window) (r : Results)
    (hw : w.off + w.len ≤ s.capLen) :
    dispatchPayload s' noph hintv aal w r = dispatchPayload s noph hintv aal w r := by
  cases aal with
  | aal5 => exact h.dispatchAal5 hintv w _ hw
  | aal2 => exact h.dispatchAal2 noph hintv w _ hw
  | _ => rfl

end

/-! ### The windows lie inside the capture (R255) -/

theorem wholeWindow_inside (s : State) : s.wholeWindow.off + s.wholeWindow.len ≤ s.capLen := by
  simp only [State.wholeWindow]
  omega

theorem cellWindow_inside (s : State) (hl : Nat) (h : hl ≤ s.capLen) :
    (s.cellWindow hl).off + (s.cellWindow hl).len ≤ s.capLen := by
  simp only [State.cellWindow]
  omega

theorem aal5Window_inside (s : State) (aal : AalKind) : (aal5Window s aal).off + (aal5Window s aal).len ≤ s.capLen := by
  by_cases hg : TrailerGuards s aal
  · rw [aal5Window_of_present s aal hg]
    have := hg.g4.2
    simp only
    omega
  · rw [aal5Window_of_absent s aal hg]
    exact wholeWindow_inside s

/-! ### Every command -/

/-- The body of every command gives equal flows on equal inputs (R58, R73). -/
theorem SameInputs.bodyOf {s s' : State} (h : SameInputs s s') (i : Instr) :
    bodyOf i s' Results.zero = bodyOf i s Results.zero := by
  cases i with
  | hecCheck => exact h.hecCheckBody _
  | hdrParse ref hecp => exact h.parseHeader ref hecp _
  | oamClassify =>
    show oamClassifyBody s' _ = oamClassifyBody s _
    rw [oamClassifyBody, State.argVci, State.argPti, h.req]
    rfl
  | aal5Trailer aal =>
    show aal5TrailerBody aal s' _ = aal5TrailerBody aal s _
    rw [aal5TrailerBody, h.aal5Results, h.aal5Window, aal5TrailerBody]
  | cellCount => exact congrArg Flow.running (h.cellCount _)
  | dispatch noph hintv aal =>
    show dispatchBody noph hintv aal s' _ = dispatchBody noph hintv aal s _
    rw [dispatchBody, h.wholeWindow, h.dispatchPayload _ _ _ _ _ (wholeWindow_inside s), dispatchBody]
  | processCell ref hecp noph hintv aal =>
    show processCellBody ref hecp noph hintv aal s' _ = processCellBody ref hecp noph hintv aal s _
    rw [processCellBody, processCellBody, h.parseHeader]
    by_cases hs : s.capLen < 4 + hecp.toNat
    · rw [parseHeader_of_short s ref hecp _ hs]
      rfl
    · have hl : headerLen hecp ≤ s.capLen := Nat.le_of_not_lt hs
      rw [parseHeader_of_captured s ref hecp hl]
      show classifyAndDispatch hecp noph hintv aal s' _ = classifyAndDispatch hecp noph hintv aal s _
      rw [classifyAndDispatch, h.cellWindow, h.dispatchPayload _ _ _ _ _ (cellWindow_inside s _ hl),
        classifyAndDispatch]
  | processPdu noph hintv aal =>
    show processPduBody noph hintv aal s' _ = processPduBody noph hintv aal s _
    rw [processPduBody, h.cellCount, h.aal5Results, h.aal5Window,
      h.dispatchPayload _ _ _ _ _ (aal5Window_inside s aal), processPduBody]

/-- The results of a command depend on its word and on the flow of its body alone (R58, R59, R311). -/
theorem res_runCommand_congr (s s' : State) (body : State → Results → Flow) (hreq : s'.req = s.req)
    (hbody : body s' Results.zero = body s Results.zero) :
    (runCommand s' body).res = (runCommand s body).res := by
  rw [runCommand, runCommand, hreq, hbody]
  split
  · simp [badCommand, hreq]
  · simp [endCommand, hreq]

/-- Settles O46: on equal inputs the bodies give equal flows, and a command ends as its flow says. -/
theorem resultsDependOnlyOnRequestsAndCapturedBytes : Obligations.ResultsDependOnlyOnRequestsAndCapturedBytes := by
  intro s s' t t' i hreq hbyte ht ht'
  rw [eq_of_exec i s t ht, eq_of_exec i s' t' ht']
  exact res_runCommand_congr s s' _ hreq (SameInputs.bodyOf ⟨hreq, hbyte⟩ i)

end Sys2Proof.Machine
end

section
/-! PROOFS, the family of the memory. What each host access changes, and what every command leaves as it was
(spec/20_memory.md R72, R77, R78, spec/70_reset_and_hazards.md R347). -/

namespace Sys2Proof.Machine

/-! ### Writes to registers -/

/-- What a host write stores: the value in the request register of the number, nothing under any other (R35 to R37,
R78). -/
theorem storeReg_eq_setReq (s : State) (n : RegNum) (v : Word) :
    s.storeReg n v = s.setReq { s.req with
      arg := if n = 1 then v else s.req.arg
      caplen := if n = 2 then v else s.req.caplen
      replen := if n = 3 then v else s.req.replen } := by
  by_cases h1 : n = 1
  · subst h1; rfl
  by_cases h2 : n = 2
  · subst h2; rfl
  by_cases h3 : n = 3
  · subst h3; rfl
  rw [if_neg h1, if_neg h2, if_neg h3]
  unfold State.storeReg
  split
  case h_1 h => exact absurd (BitVec.eq_of_toNat_eq h) h1
  case h_2 h => exact absurd (BitVec.eq_of_toNat_eq h) h2
  case h_3 h => exact absurd (BitVec.eq_of_toNat_eq h) h3
  case h_4 => rfl

/-- A write to `REQ_CMD` completes a command, bad or not, with the word stored and in its status (R34, R59, R311). -/
theorem startCommand_completes (s : State) (w : Word) :
    ∃ t isBad, startCommand s w = .next t ∧ t.req = { s.req with cmd := w } ∧ t.res.status = statusWord w isBad := by
  cases hd : decodeWord w with
  | instr i =>
    refine ⟨_, _, ?_, (sameOutsideResults_runCommand (s.setCmd w) (bodyOf i)).req, status_runCommand _ _⟩
    rw [startCommand_instr s w i hd, exec_eq_runCommand]
  | bad b => exact ⟨badCommand (s.setCmd w), true, startCommand_bad s w b hd, rfl, rfl⟩

/-! ### The host's accesses -/

/-- Settles O8: one law of the step for each kind of access; a write to `REQ_CMD` completes a command and any other
write is a store. -/
theorem onlyCommandWritesHaveSideEffects : Obligations.OnlyCommandWritesHaveSideEffects := by
  intro s es
  refine ⟨fun v h => ?_, fun n v hn h => ?_, fun n h => step_readReg s n es h, fun i hi h => ?_, fun i b hi h => ?_⟩
  · obtain ⟨t, isBad, ht, hreq, hstatus⟩ := startCommand_completes (s.setPending es) v
    refine ⟨t, (step_command s v es h).trans ht, by rw [hreq], ?_, ?_⟩
    · rw [Results.done, hstatus, done_statusWord]
    · rw [Results.lastOp, hstatus, lastOp_statusWord, opField]
  · rw [step_store s n v es hn h, storeReg_eq_setReq]
    rfl
  · rw [step_readData s i es h, hostByte_of_lt s i hi]
    rfl
  · exact ⟨_, step_writeData s i b es hi h, rfl, rfl, rfl, rfl, rfl, rfl, rfl⟩

/-- Settles O9: the write replaces the byte at its index alone, and the read inside the window returns the byte of
`DATA`. -/
theorem dataReadReturnsTheByteLastWritten : Obligations.DataReadReturnsTheByteLastWritten := by
  intro s es i b hi h
  have hread := step_readData ((s.setPending (.readData i :: es)).writeByte i b) i es rfl
  rw [hostByte_of_lt _ i hi, dataByte_writeByte, if_pos rfl] at hread
  exact ⟨_, _, step_writeData s i b _ hi h, fun a => dataByte_writeByte _ i b a, hread, rfl⟩

/-! ### The commands -/

/-- Settles O44: every command is its body run as a command, which sets results and records alone. -/
theorem noCommandWritesDataOrRequests : Obligations.NoCommandWritesDataOrRequests := by
  intro s t i h
  rw [eq_of_exec i s t h]
  exact sameOutsideResults_runCommand s (bodyOf i)

end Sys2Proof.Machine
end

section
/-! PROOFS, the family of the encoding. A command word as the fields it holds: decoding reads the fields, encoding writes
them, and the bits a command ignores hold no field of it (spec/30_encoding.md R108, R109, R119, R120). -/

namespace Sys2Proof

/-! ### The codes of the fields -/

theorem AalKind.ofCode_code (k : AalKind) : AalKind.ofCode k.code = k := by
  cases k <;> rfl

theorem AalKind.code_ofCode : ∀ c : BitVec 3, (AalKind.ofCode c).code = c := by
  decide

theorem RefPoint.ofBit_code (r : RefPoint) : RefPoint.ofBit (r.code.getLsbD 0) = r := by
  cases r <;> rfl

theorem RefPoint.code_ofBit (b : Bool) : (RefPoint.ofBit b).code = BitVec.ofBool b := by
  cases b <;> rfl

/-- A flag stands in bit 0 of its word. -/
@[simp] theorem getElem_flagWord (b : Bool) (i : Nat) (h : i < 32) : (flagWord b)[i] = (decide (i = 0) && b) := by
  cases i <;> simp [flagWord]

/-! ### The fields of a word -/

/-- The fields of a word, taken as a word of the operation `o` (R108). -/
def wordFields (o : Opcode) (w : Word) : CommandFields :=
  { op := o, ref := refField w, hecp := hecpField w, noph := nophField w, hintv := hintvField w, aal := aalField w }

/-- The command of the fields: what its operation reads of them (R109). -/
def CommandFields.instr (c : CommandFields) : Instr :=
  match c.op with
  | .hecCheck => .hecCheck
  | .hdrParse => .hdrParse c.ref c.hecp
  | .oamClassify => .oamClassify
  | .aal5Trailer => .aal5Trailer c.aal
  | .cellCount => .cellCount
  | .dispatch => .dispatch c.noph c.hintv c.aal
  | .processCell => .processCell c.ref c.hecp c.noph c.hintv c.aal
  | .processPdu => .processPdu c.noph c.hintv c.aal

theorem op_fields (i : Instr) : i.fields.op = i.op := by
  cases i <;> rfl

theorem instr_fields (i : Instr) : i.fields.instr = i := by
  cases i <;> rfl

/-! ### The word of a command's fields (R120) -/

theorem opField_toWord (c : CommandFields) : opField c.toWord = c.op.code := by
  apply BitVec.eq_of_getLsbD_eq
  intro k hk
  simp only [opField, CommandFields.toWord]
  interval_cases k <;> simp

theorem reservedField_toWord (c : CommandFields) : reservedField c.toWord = 0#21 := by
  apply BitVec.eq_of_getLsbD_eq
  intro k hk
  simp only [reservedField, CommandFields.toWord]
  interval_cases k <;> simp

theorem refField_toWord (c : CommandFields) : refField c.toWord = c.ref := by
  rw [← RefPoint.ofBit_code c.ref, refField, CommandFields.toWord]
  simp

theorem hecpField_toWord (c : CommandFields) : hecpField c.toWord = c.hecp := by
  simp [hecpField, CommandFields.toWord]

theorem nophField_toWord (c : CommandFields) : nophField c.toWord = c.noph := by
  simp [nophField, CommandFields.toWord]

theorem hintvField_toWord (c : CommandFields) : hintvField c.toWord = c.hintv := by
  simp [hintvField, CommandFields.toWord]

theorem aalField_toWord (c : CommandFields) : aalField c.toWord = c.aal := by
  have h : c.toWord.extractLsb' 8 3 = c.aal.code := by
    apply BitVec.eq_of_getLsbD_eq
    intro k hk
    simp only [CommandFields.toWord]
    interval_cases k <;> simp
  rw [aalField, h, AalKind.ofCode_code]

/-- The fields of a word that was assembled from fields are those fields. -/
theorem wordFields_toWord (c : CommandFields) : wordFields c.op c.toWord = c := by
  rw [wordFields, refField_toWord, hecpField_toWord, nophField_toWord, hintvField_toWord, aalField_toWord]

/-- A word whose reserved field is 0 has no bit above bit 10 (R108). -/
theorem getLsbD_of_reservedField_zero (w : Word) (h : reservedField w = 0#21) (k : Nat) (hk : 11 ≤ k) :
    w.getLsbD k = false := by
  by_cases h32 : k < 32
  · have hbit := congrArg (fun x => x.getLsbD (k - 11)) h
    simpa [reservedField, show k - 11 < 21 by omega, Nat.add_sub_cancel' hk] using hbit
  · exact BitVec.getLsbD_of_ge w k (Nat.le_of_not_lt h32)

/-- A word without a reserved bit is assembled from its own fields. -/
theorem toWord_wordFields (o : Opcode) (w : Word) (hr : reservedField w = 0#21) (ho : opField w = o.code) :
    (wordFields o w).toWord = w := by
  apply BitVec.eq_of_getLsbD_eq
  intro k hk
  by_cases h : k < 11
  · simp only [CommandFields.toWord, wordFields, ← ho, opField, refField, hecpField, nophField, hintvField, aalField,
      RefPoint.code_ofBit, AalKind.code_ofCode]
    interval_cases k <;> simp
  · rw [getLsbD_of_reservedField_zero w hr k (by omega),
      getLsbD_of_reservedField_zero _ (reservedField_toWord _) k (by omega)]

/-! ### Decoding reads the fields (R119) -/

/-- A word without a reserved bit decodes to the command of its operation, with its fields. -/
theorem decodeWord_of_op (w : Word) (o : Opcode) (hr : reservedField w = 0#21) (ho : opField w = o.code) :
    decodeWord w = .instr (wordFields o w).instr := by
  rw [decodeWord, if_pos hr, ho]
  cases o <;> rfl

/-- A word decodes to a command exactly when it has no reserved bit, has the command's operation, and its fields are
the command's where the command reads them. -/
theorem decodeWord_eq_instr_iff (w : Word) (i : Instr) :
    decodeWord w = .instr i ↔
      reservedField w = 0#21 ∧ opField w = i.op.code ∧ (wordFields i.op w).instr = i := by
  constructor
  · intro h
    have ho := op_of_decodeWord w i h
    have hr : reservedField w = 0#21 := by
      by_contra hr
      rw [decodeWord_of_reservedBits w hr] at h
      cases h
    rw [decodeWord_of_op w i.op hr ho] at h
    exact ⟨hr, ho, Decoded.instr.inj h⟩
  · rintro ⟨hr, ho, hi⟩
    rw [decodeWord_of_op w i.op hr ho, hi]

/-- The fields of a command's word are the command's, and the command reads its own back from them. -/
theorem decodeWord_encode (i : Instr) : decodeWord (encode i) = .instr i := by
  have hop := op_fields i
  have hfields : wordFields i.op (encode i) = i.fields := hop ▸ wordFields_toWord i.fields
  refine (decodeWord_eq_instr_iff _ i).mpr ⟨reservedField_toWord i.fields, ?_, ?_⟩
  · rw [encode, opField_toWord, hop]
  · rw [hfields, instr_fields]

/-- Settles O2: every command is well formed, and decoding undoes encoding for each. -/
theorem decodeOfEncodeIsTheCommand : Obligations.DecodeOfEncodeIsTheCommand :=
  fun i _ => decodeWord_encode i

/-! ### The bits that a command ignores (R109) -/

/-- Every command reads the reserved bits. -/
theorem reservedField_and_readMask (i : Instr) (w : Word) : reservedField (w &&& i.readMask) = reservedField w := by
  have hmask : i.readMask.extractLsb' 11 21 = BitVec.allOnes 21 := by cases i <;> simp only [Instr.readMask] <;> decide
  rw [reservedField, BitVec.extractLsb'_and, hmask, BitVec.and_allOnes, reservedField]

/-- Every command reads its operation. -/
theorem opField_and_readMask (i : Instr) (w : Word) : opField (w &&& i.readMask) = opField w := by
  have hmask : i.readMask.extractLsb' 0 4 = BitVec.allOnes 4 := by cases i <;> simp only [Instr.readMask] <;> decide
  rw [opField, BitVec.extractLsb'_and, hmask, BitVec.and_allOnes, opField]

/-- Field `AAL` of a word under a mask that keeps it. -/
theorem aalField_and_of_kept (w m : Word) (h : m.extractLsb' 8 3 = 7#3) : aalField (w &&& m) = aalField w := by
  rw [aalField, BitVec.extractLsb'_and, h]
  exact congrArg AalKind.ofCode (BitVec.and_allOnes (x := w.extractLsb' 8 3))

/-- Field `AAL` of a word under a mask that clears it. -/
theorem aalField_and_of_cleared (w m : Word) (h : m.extractLsb' 8 3 = 0#3) : aalField (w &&& m) = .unknown := by
  rw [aalField, BitVec.extractLsb'_and, h, BitVec.and_zero]
  rfl

/-- With the bits that a command ignores cleared, a word holds the fields that the command reads, and the defaults in
the others. -/
theorem wordFields_and_readMask (i : Instr) (w : Word) :
    wordFields i.op (w &&& i.readMask) = (wordFields i.op w).instr.fields := by
  cases i <;>
    simp [wordFields, Instr.op, Instr.readMask, Instr.fields, CommandFields.instr, refField, hecpField, nophField,
      hintvField, RefPoint.ofBit, aalField_and_of_kept, aalField_and_of_cleared]

/-- Settles O3: the mask keeps what decoding reads, and a word without ignored bits is assembled from its fields. -/
theorem decodedWordIsTheEncodingUpToIgnoredBits : Obligations.DecodedWordIsTheEncodingUpToIgnoredBits := by
  intro w i
  have hr := reservedField_and_readMask i w
  have ho := opField_and_readMask i w
  have hf := wordFields_and_readMask i w
  constructor
  · intro h
    obtain ⟨hres, hop, hi⟩ := (decodeWord_eq_instr_iff w i).mp h
    calc w &&& i.readMask
        = (wordFields i.op (w &&& i.readMask)).toWord := (toWord_wordFields _ _ (hr.trans hres) (ho.trans hop)).symm
      _ = encode i := by rw [hf, hi, encode]
  · intro h
    obtain ⟨hres, hop, hi⟩ := (decodeWord_eq_instr_iff _ i).mp (decodeWord_encode i)
    rw [h] at hr ho hf
    rw [hf, instr_fields] at hi
    exact (decodeWord_eq_instr_iff w i).mpr ⟨hr ▸ hres, ho ▸ hop, hi⟩

/-! ### The codes of R114, the decoding rule and the spec's examples -/

theorem aalCodes_eq_code : ∀ p ∈ Machine.aalCodes, AalKind.ofCode p.2 = p.1 ∧ p.1.code = p.2 := by
  decide

/-- Settles O1: reserved bits and operations are bad by name, and every other word holds an operation and its
fields. -/
theorem decodeFollowsTheDecodingRule : Obligations.DecodeFollowsTheDecodingRule := by
  refine ⟨aalCodes_eq_code, fun w => ⟨decodeWord_of_reservedBits w, fun hr => ?_⟩⟩
  have command (o : Opcode) (ho : (w.extractLsb' 0 4).toNat = o.code.toNat) :
      decodeWord w = .instr (wordFields o w).instr := decodeWord_of_op w o hr (BitVec.eq_of_toNat_eq ho)
  exact ⟨decodeWord_of_reservedOp w hr, command .hecCheck, command .hdrParse, command .oamClassify,
    command .aal5Trailer, command .cellCount, command .dispatch, command .processCell, command .processPdu⟩

/-- Settles O4: each word is the word of its command. -/
theorem specExampleWordsDecode : Obligations.SpecExampleWordsDecode :=
  ⟨decodeWord_encode (.processCell .uni true false false .aal5), decodeWord_encode (.processPdu false false .aal5),
    decodeWord_encode (.hdrParse .nni true), decodeWord_encode .hecCheck, decodeWord_encode .oamClassify,
    decodeWord_encode (.aal5Trailer .signallingAal), decodeWord_encode .cellCount,
    decodeWord_encode (.dispatch false true .aal2)⟩

end Sys2Proof
end

section
/-! PROOFS, the family of the encoding. The pseudo-instructions of a host program, run event by event, and the codes of
`AalKind` in a command and in `RES_CLASS` (spec/30_encoding.md R113, R114, R121). -/

namespace Sys2Proof.Machine

/-! ### Runs of a program -/

theorem run_succ_of_step (k : Nat) (s t : State) (h : step s = .next t) : core.run (k + 1) s = core.run k t := by
  have hs : core.step s = .next t := h
  simp only [Host.Core.run, hs]

theorem withProgram_singleton (s : State) (op : HostOp) : s.withProgram [op] = s.setPending (expand op) := by
  rw [State.withProgram, List.flatMap_singleton]

/-! ### LOAD (R121) -/

/-- The state after the host wrote the bytes from index `i` on. -/
def State.writeBytes (s : State) (i : Nat) : List Byte → State
  | [] => s
  | b :: bs => (s.writeByte i b).writeBytes (i + 1) bs

@[simp] theorem State.writeBytes_req (s : State) (i : Nat) (bytes : List Byte) :
    (s.writeBytes i bytes).req = s.req := by
  induction bytes generalizing s i with
  | nil => rfl
  | cons b bs ih => exact ih _ _

@[simp] theorem State.writeBytes_res (s : State) (i : Nat) (bytes : List Byte) :
    (s.writeBytes i bytes).res = s.res := by
  induction bytes generalizing s i with
  | nil => rfl
  | cons b bs ih => exact ih _ _

/-- Bytes written from index `i` on leave the bytes below `i`. -/
theorem dataByte_writeBytes_of_lt (s : State) (i : Nat) (bytes : List Byte) (a : Nat) (h : a < i) :
    (s.writeBytes i bytes).dataByte a = s.dataByte a := by
  induction bytes generalizing s i with
  | nil => rfl
  | cons b bs ih => rw [State.writeBytes, ih _ _ (by omega), dataByte_writeByte, if_neg (by omega)]

/-- Byte `k` of bytes written from index `i` on stands at `i + k`, and the bytes past their end stay. -/
theorem dataByte_writeBytes_add (s : State) (i : Nat) (bytes : List Byte) (k : Nat) :
    (s.writeBytes i bytes).dataByte (i + k) = (bytes[k]?).getD (s.dataByte (i + k)) := by
  induction bytes generalizing s i k with
  | nil => rfl
  | cons b bs ih =>
    cases k with
    | zero =>
      rw [State.writeBytes, dataByte_writeBytes_of_lt _ _ _ _ (by omega), dataByte_writeByte]
      exact if_pos rfl
    | succ k =>
      rw [State.writeBytes, ← Nat.add_assoc, Nat.add_right_comm, ih, dataByte_writeByte, if_neg (by omega)]
      rfl

/-- The writes of LOAD, one step each, leave its bytes in a window that holds them, and the run goes on. -/
theorem run_loadBytes (k : Nat) (s : State) (i : Nat) (bytes : List Byte) (es : List Event)
    (h : i + bytes.length ≤ Config.maxBuf) :
    core.run (bytes.length + k) (s.setPending (loadBytes i bytes ++ es)) =
      core.run k ((s.writeBytes i bytes).setPending es) := by
  induction bytes generalizing s i with
  | nil => exact congrArg (core.run · _) (Nat.zero_add k)
  | cons b bs ih =>
    rw [List.length_cons] at h
    have hstep := step_writeData (s.setPending (loadBytes i (b :: bs) ++ es)) i b _ (by omega) rfl
    rw [List.length_cons, Nat.add_right_comm, run_succ_of_step _ _ _ hstep]
    exact ih (s.writeByte i b) (i + 1) (by omega)

/-- Settles O13: the bytes are written one by one, then the two lengths are stored. -/
theorem loadFillsTheWindowAndTheLengths : Obligations.LoadFillsTheWindowAndTheLengths := by
  intro s bytes hwf
  have hlen : bytes.length ≤ Config.maxBuf := by
    simp only [HostOp.wellFormed, Bool.and_eq_true, decide_eq_true_eq] at hwf
    exact hwf.1
  have hbyte := fun i => Nat.zero_add i ▸ dataByte_writeBytes_add s 0 bytes i
  rw [withProgram_singleton, expand, run_loadBytes 2 s 0 bytes _ (by omega),
    run_succ_of_step _ _ _ (step_store _ regCaplen _ _ (by decide) rfl),
    run_succ_of_step _ _ _ (step_store _ regReplen _ _ (by decide) rfl)]
  refine ⟨_, rfl, fun i hi => ?_, fun i hi => ?_, ?_, s.writeBytes_res 0 bytes, rfl⟩
  · exact (hbyte i).trans (by rw [List.getElem?_eq_getElem hi, Option.getD_some])
  · exact (hbyte i).trans (by rw [List.getElem?_eq_none hi, Option.getD_none])
  · rw [← s.writeBytes_req 0 bytes]
    rfl

/-! ### OAM_CLASSIFY with its operands (R113, R121) -/

/-- `REQ_ARG` as the pseudo-instruction writes it. -/
def oamOperands (vci : BitVec 16) (pti : BitVec 3) : Word := (pti.setWidth 32 <<< 16) ||| vci.setWidth 32

/-- The argument word holds the VCI in its low half. -/
theorem vci_oamOperands (vci : BitVec 16) (pti : BitVec 3) : getField (oamOperands vci pti) 0 16 = vci := by
  apply BitVec.eq_of_getLsbD_eq
  intro i hi
  simp only [getField, oamOperands]
  interval_cases i <;> simp

/-- The argument word holds the PTI above the VCI. -/
theorem pti_oamOperands (vci : BitVec 16) (pti : BitVec 3) : getField (oamOperands vci pti) 16 3 = pti := by
  apply BitVec.eq_of_getLsbD_eq
  intro i hi
  simp only [getField, oamOperands]
  interval_cases i <;> simp

theorem oamv_writeOam (oam : Bool) (r : Results) : (writeOam oam r).oamv = true := by
  simp only [writeOam, Results.oamv, getLsbD_putField]
  simp

theorem oam_writeOam (oam : Bool) (r : Results) : (writeOam oam r).oam = oam := by
  simp only [writeOam, Results.oam, getLsbD_putField]
  simp

/-- OAM_CLASSIFY shows the truth table's answer for the operands in `REQ_ARG` (R180, R182). -/
theorem oam_exec_oamClassify (s : State) (vci : BitVec 16) (pti : BitVec 3) (h : s.Fits)
    (harg : s.req.arg = oamOperands vci pti) :
    ∃ t, exec .oamClassify s = .next t ∧ t.res.oamv = true ∧ t.res.oam = oamTable vci pti := by
  have hbody : oamClassifyBody s Results.zero = .running (writeOam (oamTable vci pti) Results.zero) := by
    rw [oamClassifyBody, State.argVci, State.argPti, harg, vci_oamOperands, pti_oamOperands, isOam_eq_oamTable]
  refine ⟨s.endsWith (writeOam (oamTable vci pti) Results.zero), ?_, oamv_writeOam _ _, oam_writeOam _ _⟩
  rw [exec_eq_runCommand, runCommand_of_fits s _ h, bodyOf, hbody, endCommand_running]

/-- Settles O14: the first step stores the operands, the second runs the command on them. -/
theorem oamClassifyPseudoInstructionClassifiesItsOperands :
    Obligations.OamClassifyPseudoInstructionClassifiesItsOperands := by
  intro s vci pti hfits
  rw [withProgram_singleton, expand, run_succ_of_step _ _ _ (step_store _ regArg _ _ (by decide) rfl)]
  obtain ⟨t, hexec, hoam⟩ := oam_exec_oamClassify
    (((s.setPending []).storeReg regArg (oamOperands vci pti)).setCmd 3) vci pti hfits rfl
  refine ⟨t, run_succ_of_step 0 _ t ?_, hoam⟩
  rw [commandWrite, step_command _ 3 [] rfl, startCommand_instr _ 3 _ (decodeWord_encode .oamClassify)]
  exact hexec

/-! ### The codes of AalKind (R114) -/

/-- Whatever `Dispatch` decides, `RES_CLASS` shows the AAL kind it was given (R241). -/
theorem cls_dispatchPayload (s : State) (noph hintv : Bool) (aal : AalKind) (w : Window) (r : Results)
    (hr : r.route = 0) (hk : r.key = 0) :
    (dispatchPayload s noph hintv aal w r).results.cls = (writeAale aal r).cls := by
  obtain ⟨-, h⟩ | ⟨-, ⟨_, _, _, h, -⟩⟩ := dispatchPayload_cases s noph hintv aal w r hr hk
  · rw [h]
    rfl
  · rw [h]
    rfl

theorem aalev_writeAale (aal : AalKind) (r : Results) : (writeAale aal r).aalev = true := by
  simp only [writeAale, Results.aalev, getLsbD_putField]
  simp

theorem aale_writeAale (aal : AalKind) (r : Results) : (writeAale aal r).aale = aal.code := by
  rw [writeAale, Results.aale, getField_putField_other _ _ _ _ _ (by decide),
    getField_putField_same _ _ _ (by decide)]

/-- Settles O52: the decoder reads a code as its kind, and DISPATCH shows a kind by its code. -/
theorem aalKindCodes : Obligations.AalKindCodes := by
  intro p hp
  obtain ⟨hkind, hcode⟩ := aalCodes_eq_code p hp
  constructor
  · intro w hr ho haal
    have hfield : aalField w = p.1 := by rw [aalField, haal, hkind]
    rw [decodeWord_of_op w .aal5Trailer hr ho, ← hfield]
    rfl
  · intro s t noph hintv hfits ht
    have hcls : t.res.cls = (writeAale p.1 Results.zero).cls := by
      rw [eq_of_exec _ s t ht, runCommand_of_fits s _ hfits]
      exact cls_dispatchPayload s noph hintv p.1 s.wholeWindow Results.zero rfl rfl
    rw [Results.aalev, Results.aale, hcls, ← hcode]
    exact ⟨aalev_writeAale p.1 Results.zero, aale_writeAale p.1 Results.zero⟩

end Sys2Proof.Machine
end

section
/-! PROOFS, the family of HEC_CHECK. The entries of `EPOS` and the results of HecCheck, and the command itself
(spec/40_hec.md R140 to R150). -/

namespace Sys2Proof.Machine

/-! ### The entries of EPOS (R148) -/

/-- Every pair of the list is a position with its syndrome. -/
theorem eposPairs_eq_position : ∀ e ∈ eposPairs, ∃ p : Fin 40, e = (positionSyndrome p, p.val) := by
  decide +kernel

/-- An entry that is neither "no error" nor a position's is "uncorrectable": its syndrome is not in the list. -/
theorem epos_of_ne_position (y : Byte) (h0 : y ≠ 0) (hp : ∀ p : Fin 40, y ≠ positionSyndrome p) : epos y = 128 := by
  cases hl : eposPairs.lookup y with
  | none => simp only [epos, if_neg h0, hl]
  | some n =>
    obtain ⟨pre, post, hsplit, -⟩ := List.lookup_eq_some_iff.mp hl
    obtain ⟨p, he⟩ := eposPairs_eq_position (y, n) (by simp [hsplit])
    exact absurd (congrArg Prod.fst he) (hp p)

/-- Only the entry `p` is classified as position `p` (R143). -/
theorem eq_of_classify_eq_correctablePosition (e : Int) (p : Fin 40) (h : classify e = .correctablePosition p) :
    e = p.val := by
  unfold classify at h
  split at h
  · cases h
  · next he =>
    split at h
    · injection h with h
      rw [← h]
      exact (Int.toNat_of_nonneg (not_lt.mp he)).symm
    · cases h

/-- Settles O16: a position's syndrome is classified as that position, so its entry is the position, and every other
syndrome is missing from the list. -/
theorem eposTableContents : Obligations.EposTableContents :=
  ⟨rfl, fun p => eq_of_classify_eq_correctablePosition _ p (classify_position p), epos_of_ne_position⟩

/-! ### The result of a syndrome (R142 to R144) -/

/-- A syndrome that is neither 0 nor a position's is uncorrectable. -/
theorem classify_of_ne_position (y : Byte) (h0 : y ≠ 0) (hp : ∀ p : Fin 40, y ≠ positionSyndrome p) :
    classify (epos y) = .uncorrectable := by
  rw [epos_of_ne_position y h0 hp]
  rfl

/-- Different positions have different syndromes (R148). -/
theorem positionSyndrome_injective : Function.Injective positionSyndrome := by
  intro p q h
  have hc := classify_position p
  rw [h, classify_position q] at hc
  injection hc with hc
  exact hc.symm

/-- Only the syndrome of position `p` is found at `p`. -/
theorem classify_eq_correctablePosition_iff (y : Byte) (p : Fin 40) :
    classify (epos y) = .correctablePosition p ↔ y = positionSyndrome p := by
  constructor
  · intro h
    have h0 : y ≠ 0 := by
      intro h0
      rw [(classify_eq_noError_iff y).mpr h0] at h
      cases h
    by_contra hp
    have hne : ∀ q, y ≠ positionSyndrome q := by
      rintro q rfl
      rw [classify_position q] at h
      injection h with h
      exact hp (congrArg positionSyndrome h)
    rw [classify_of_ne_position y h0 hne] at h
    cases h
  · rintro rfl
    exact classify_position p

/-- Settles O17: inverting bit `p` adds `S(p)` to the syndrome, and the sum is 0 exactly when the syndrome was
`S(p)`. -/
theorem positionNamesTheBitThatClearsTheSyndrome : Obligations.PositionNamesTheBitThatClearsTheSyndrome := by
  intro h p
  calc (hecCheckNumber h).1 = .correctablePosition p
      ↔ syndromeNumber h = positionSyndrome p := classify_eq_correctablePosition_iff _ p
    _ ↔ syndromeNumber h ^^^ positionSyndrome p = 0 := BitVec.xor_eq_zero_iff.symm
    _ ↔ (hecCheckNumber (flipPosition h p)).2 = 0 := by rw [hecCheckNumber_eq, syndromeNumber_flipPosition]

/-! ### The generated HEC byte (R149) -/

/-- The syndrome is 0 for the one HEC byte that the first four bytes determine (R141). -/
theorem syndrome_eq_zero_iff (h0 h1 h2 h3 h4 : Byte) :
    syndrome h0 h1 h2 h3 h4 = 0 ↔ h4 = hecFold h0 h1 h2 h3 ^^^ 0x55 := by
  rw [syndrome, BitVec.xor_assoc, BitVec.xor_comm h4, ← BitVec.xor_assoc]
  exact BitVec.xor_eq_zero_iff.trans eq_comm

/-- Settles O18: no error is the syndrome 0. -/
theorem noErrorExactlyForTheGeneratedHecByte : Obligations.NoErrorExactlyForTheGeneratedHecByte := by
  have hiff (h0 h1 h2 h3 h4 : Byte) :
      (hecCheck h0 h1 h2 h3 h4).1 = .noErrorDetected ↔ h4 = hecFold h0 h1 h2 h3 ^^^ 0x55 :=
    (classify_eq_noError_iff _).trans (syndrome_eq_zero_iff h0 h1 h2 h3 h4)
  exact ⟨hiff, (hiff _ _ _ _ _).mpr (by decide +kernel), (hiff _ _ _ _ _).mpr (by decide +kernel)⟩

/-! ### The number of 1 bits of a syndrome, even or odd (R150) -/

/-- How many bits of a byte are 1. -/
def oneBits (y : Byte) : Nat := (List.range 8).countP fun i => y.getLsbD i

/-- The elements of which exactly one of two predicates holds are as many as both count together, up to an even
number. -/
theorem countP_xor_mod_two {α : Type} (f g : α → Bool) (l : List α) :
    (l.countP fun a => f a ^^ g a) % 2 = (l.countP f + l.countP g) % 2 := by
  induction l with
  | nil => rfl
  | cons a l ih =>
    simp only [List.countP_cons]
    cases f a <;> cases g a <;> simp <;> omega

/-- The parity of the 1 bits is linear. -/
theorem oneBits_xor_mod_two (x y : Byte) : oneBits (x ^^^ y) % 2 = (oneBits x + oneBits y) % 2 := by
  simp only [oneBits, BitVec.getLsbD_xor]
  exact countP_xor_mod_two _ _ _

/-- A shift loses bit 7 alone. -/
theorem oneBits_shiftLeft_one (y : Byte) : oneBits (y <<< 1) + (y.getLsbD 7).toNat = oneBits y := by
  have hleft : oneBits (y <<< 1) = (List.range 7).countP fun i => y.getLsbD i := by
    rw [oneBits, List.range_succ_eq_map, List.countP_cons, List.countP_map]
    refine (congrArg _ (if_neg (by simp))).trans (List.countP_congr fun i hi => ?_)
    have hlt : i + 1 < 8 := Nat.succ_lt_succ (List.mem_range.mp hi)
    simp [hlt]
  have hright : oneBits y = (List.range 7).countP (fun i => y.getLsbD i) + if y.getLsbD 7 then 1 else 0 := by
    rw [oneBits, List.range_succ, List.countP_append, List.countP_singleton]
  rw [hleft, hright]
  cases y.getLsbD 7 <;> rfl

/-- A step of the table keeps the parity of the 1 bits, since `g(x)` has the factor `x + 1`: where the shift loses a
1 bit, the generator inverts three bits. -/
theorem oneBits_syndStep_mod_two (y : Byte) : oneBits (syndStep y) % 2 = oneBits y % 2 := by
  have hshift := oneBits_shiftLeft_one y
  have hpoly : oneBits Config.hecPoly = 3 := by decide
  unfold syndStep
  split
  · next h7 =>
    rw [h7, Bool.toNat_true] at hshift
    rw [oneBits_xor_mod_two, hpoly]
    omega
  · next h7 =>
    rw [Bool.eq_false_iff.mpr h7, Bool.toNat_false] at hshift
    rw [← hshift, Nat.add_zero]

/-- Every position's syndrome has an odd number of 1 bits, as `x^0` has. -/
theorem oneBits_positionSyndrome_mod_two (p : Fin 40) : oneBits (positionSyndrome p) % 2 = 1 :=
  congrFun (Function.iterate_invariant (g := fun y => oneBits y % 2) (funext oneBits_syndStep_mod_two) (39 - p.val)) 1

/-! ### Error coverage (R150) -/

/-- One inverted bit of a header without an error leaves its position's syndrome. -/
theorem syndromeNumber_flipPosition_of_noError (h : BitVec 40) (p : Fin 40)
    (hn : (hecCheckNumber h).1 = .noErrorDetected) : syndromeNumber (flipPosition h p) = positionSyndrome p := by
  have h0 : syndromeNumber h = 0 := (classify_eq_noError_iff _).mp hn
  rw [syndromeNumber_flipPosition, h0]
  exact BitVec.zero_xor

/-- The syndromes of two positions add to an uncorrectable one: not 0, since they differ, and no position's, since it
has an even number of 1 bits. -/
theorem classify_two_positions (p q : Fin 40) (hpq : p ≠ q) :
    classify (epos (positionSyndrome p ^^^ positionSyndrome q)) = .uncorrectable := by
  refine classify_of_ne_position _ ?_ ?_
  · intro h0
    exact hpq (positionSyndrome_injective (BitVec.xor_eq_zero_iff.mp h0))
  · intro r hr
    have hsum := oneBits_xor_mod_two (positionSyndrome p) (positionSyndrome q)
    rw [hr] at hsum
    have hp := oneBits_positionSyndrome_mod_two p
    have hq := oneBits_positionSyndrome_mod_two q
    have hr := oneBits_positionSyndrome_mod_two r
    omega

/-- Settles O19: the inverted bits of a header without an error leave the sum of their positions' syndromes. -/
theorem hecErrorCoverage : Obligations.HecErrorCoverage := by
  refine ⟨fun h p hn => ?_, fun h p q hn hpq => ?_, oneBits_positionSyndrome_mod_two, ?_, ?_, ?_⟩
  · rw [hecCheckNumber_eq, syndromeNumber_flipPosition_of_noError h p hn]
    exact classify_position p
  · rw [hecCheckNumber_eq, syndromeNumber_flipPosition, syndromeNumber_flipPosition_of_noError h p hn]
    exact classify_two_positions p q hpq
  all_goals decide +kernel

/-! ### HEC_CHECK (R140) -/

/-- A check of fewer than five bytes (R140). -/
theorem hecCheckBody_of_short (s : State) (r : Results) (h : s.capLen < 5) : hecCheckBody s r = raiseTooShort r :=
  if_pos h

/-- A check of five captured bytes on cleared results (R140). -/
theorem hecCheckBody_of_captured (s : State) (h : 5 ≤ s.capLen) :
    hecCheckBody s Results.zero = .running { Results.zero with
      hec := hecWord (hecCheckNumber s.headerNumber).1 (hecCheckNumber s.headerNumber).2
      diag := hecDiag (hecCheckNumber s.headerNumber).1 } := by
  rw [hecCheckBody, if_neg (not_lt.mpr h), hec_writeHec_clear _ _ rfl rfl, hecCheckNumber_headerNumber]

/-- Settles O15: the word is read up to its ignored bits, and the command runs its body on cleared results. -/
theorem hecCheckResult : Obligations.HecCheckResult := by
  refine ⟨by decide, fun w hw => ?_, by decide +kernel, by decide +kernel, fun s hfits => ⟨fun h => ?_, fun h => ?_⟩⟩
  · exact (decodedWordIsTheEncodingUpToIgnoredBits w .hecCheck).mpr hw
  · rw [exec_eq_runCommand, runCommand_of_fits s _ hfits, bodyOf, hecCheckBody_of_short s _ h,
      endCommand_raiseTooShort]
  · rw [exec_eq_runCommand, runCommand_of_fits s _ hfits, bodyOf, hecCheckBody_of_captured s h, endCommand_running]

end Sys2Proof.Machine
end

section
/-! PROOFS, the family of HDR_PARSE and OAM_CLASSIFY. A command whose capture fits runs its body and ends as the body
does (spec/41_header.md R170 to R182). -/

namespace Sys2Proof.Machine

/-! ### How a command ends (R59, R312) -/

/-- A command whose capture fits and whose body goes on to results `r` ends with them (R59). -/
theorem exec_of_running (i : Instr) (s : State) (r : Results) (hfits : s.Fits)
    (hbody : bodyOf i s Results.zero = .running r) : exec i s = .next (s.endsWith r) := by
  rw [exec_eq_runCommand, runCommand_of_fits s _ hfits, hbody, endCommand_running]

/-- A command whose capture fits and whose body raises `TooShort` after results `r` ends short, keeping them (R312). -/
theorem exec_of_raiseTooShort (i : Instr) (s : State) (r : Results) (hfits : s.Fits)
    (hbody : bodyOf i s Results.zero = raiseTooShort r) : exec i s = .next (s.endsShort r) := by
  rw [exec_eq_runCommand, runCommand_of_fits s _ hfits, hbody, endCommand_raiseTooShort]

/-! ### HDR_PARSE (R170 to R175) -/

/-- Settles O20: the body is the parse, which reads a captured header to its end. -/
theorem hdrParseFieldsAsRead : Obligations.HdrParseFieldsAsRead :=
  fun s ref hecp hfits hcap =>
    exec_of_running (.hdrParse ref hecp) s _ hfits (parseHeader_of_captured s ref hecp hcap)

/-- Settles O21: the parse checks the length before it writes a field. -/
theorem hdrParseTooShort : Obligations.HdrParseTooShort :=
  fun s ref hecp hfits hshort =>
    exec_of_raiseTooShort (.hdrParse ref hecp) s _ hfits (parseHeader_of_short s ref hecp _ hshort)

/-! ### OAM_CLASSIFY (R180 to R182) -/

/-- `RES_CLASS` after the classifier on cleared bits: `OAMV`, and the answer above it (R43, R180). -/
theorem writeOam_clear (oam : Bool) (r : Results) (h : r.cls = 0) :
    writeOam oam r = { r with cls := 1#32 ||| ((BitVec.ofBool oam).setWidth 32 <<< 1) } := by
  rw [writeOam, h, putField_zero, putField_bit_true _ 0 (by decide), BitVec.or_comm]
  rfl

/-- OAM_CLASSIFY writes the truth table's answer for the two fields of `REQ_ARG` (R113, R180, R182). -/
theorem oamClassifyBody_eq (s : State) (r : Results) :
    oamClassifyBody s r =
      .running (writeOam (oamTable (s.req.arg.extractLsb' 0 16) (s.req.arg.extractLsb' 16 3)) r) := by
  rw [oamClassifyBody, isOam_eq_oamTable]
  rfl

/-- Settles O22: the classifier is its truth table, and its answer is all that the body writes. -/
theorem oamClassifyFollowsTheTruthTable : Obligations.OamClassifyFollowsTheTruthTable := by
  intro s hfits
  refine exec_of_running .oamClassify s _ hfits ?_
  rw [bodyOf, oamClassifyBody_eq, writeOam_clear _ _ rfl]

end Sys2Proof.Machine
end

section
/-! PROOFS, the family of AAL5_TRAILER and CELL_COUNT. The results of the two commands
(spec/42_aal5.md R200 to R208). -/

namespace Sys2Proof.Machine

/-- Settles O28: the body is the cell count on cleared results. -/
theorem cellCountResult : Obligations.CellCountResult :=
  fun s hfits => exec_of_running .cellCount s _ hfits (congrArg Flow.running (cellCount_zero s))

/-- AAL5_TRAILER without a trailer writes the window alone (R208). -/
theorem aal5TrailerBody_of_absent (s : State) (aal : AalKind) (r : Results) (h : ¬ TrailerGuards s aal) :
    aal5TrailerBody aal s r = .running (r.setWindow s.wholeWindow) := by
  rw [aal5TrailerBody, aal5Results_of_absent s aal r h, aal5Window_of_absent s aal h]

/-- AAL5_TRAILER with a trailer hands on the content (R205). -/
theorem aal5TrailerBody_of_present (s : State) (aal : AalKind) (r : Results) (h : TrailerGuards s aal) :
    aal5TrailerBody aal s r =
      .running ((aal5Results s aal r).setWindow { off := 0, len := s.lengthField, rep := s.lengthField }) := by
  rw [aal5TrailerBody, aal5Window_of_present s aal h]

/-- Settles O24: without a trailer the body writes the window of the whole capture alone. -/
theorem aal5TrailerAbsent : Obligations.Aal5TrailerAbsent :=
  fun s aal hfits hg => exec_of_running (.aal5Trailer aal) s _ hfits (aal5TrailerBody_of_absent s aal _ hg)

/-- The CRC field is the last four captured bytes, the first the most significant (R202). -/
theorem be32_crcField (s : State) (h : 4 ≤ s.capLen) :
    s.be32 (s.capLen - 4) =
      ((s.dataByte (s.capLen - 4)).setWidth 32 <<< 24) ||| ((s.dataByte (s.capLen - 3)).setWidth 32 <<< 16) |||
        ((s.dataByte (s.capLen - 2)).setWidth 32 <<< 8) ||| (s.dataByte (s.capLen - 1)).setWidth 32 := by
  rw [be32_eq, show s.capLen - 4 + 1 = s.capLen - 3 by omega, show s.capLen - 4 + 2 = s.capLen - 2 by omega,
    show s.capLen - 4 + 3 = s.capLen - 1 by omega]

/-- Settles O23: the trailer function on cleared results, which hold no cell count, and the window of the content. -/
theorem aal5TrailerPresent : Obligations.Aal5TrailerPresent := by
  intro s aal hfits hg
  refine exec_of_running (.aal5Trailer aal) s _ hfits ?_
  have hr := aal5Results_of_present s aal false 0 hg
  rw [be32_crcField s (by have := hg.g3; omega)] at hr
  simp only [Bool.false_eq_true, if_false, BitVec.or_zero] at hr
  rw [bodyOf, aal5TrailerBody_of_present s aal _ hg]
  rw [show Results.zero = { Results.zero with cells := 0, aal5st := 0#32 } from rfl, hr]
  rfl

end Sys2Proof.Machine
end

section
/-! PROOFS, the family of AAL5_TRAILER and CELL_COUNT. What every command that shows a trailer shows of it: the guards
hold, and the length, the padding and the verdict are those of the capture (spec/42_aal5.md R201 to R210). -/

namespace Sys2Proof.Machine

/-- The results show the trailer of the captured bytes (R202, R204). -/
structure Results.ShowsTrailer (r : Results) (s : State) : Prop where
  trlp : r.trlp = true
  length : r.length.toNat = s.lengthField
  pad : r.pad.toNat = s.capLen - s.lengthField - 8
  crcok : r.crcok = (s.pduCrc == Config.crcResidue)

/-- The registers of the trailer are the same (R44 to R46, R53). -/
structure Results.SameTrailer (r r' : Results) : Prop where
  trl0 : r'.trl0 = r.trl0
  trl1 : r'.trl1 = r.trl1
  aal5st : r'.aal5st = r.aal5st
  crcreg : r'.crcreg = r.crcreg

theorem Results.SameTrailer.trans {r r' r'' : Results} (h : r.SameTrailer r') (h' : r'.SameTrailer r'') :
    r.SameTrailer r'' :=
  ⟨h'.trl0.trans h.trl0, h'.trl1.trans h.trl1, h'.aal5st.trans h.aal5st, h'.crcreg.trans h.crcreg⟩

theorem Results.SameTrailer.trlp {r r' : Results} (h : r.SameTrailer r') : r'.trlp = r.trlp :=
  congrArg (BitVec.getLsbD · 0) h.aal5st

/-- What is shown of a trailer stands in the registers of the trailer. -/
theorem Results.ShowsTrailer.congr {r r' : Results} {s : State} (h : r.ShowsTrailer s) (hr : r.SameTrailer r') :
    r'.ShowsTrailer s where
  trlp := hr.trlp.trans h.trlp
  length := by rw [Results.length, hr.trl0]; exact h.length
  pad := by rw [Results.pad, hr.aal5st]; exact h.pad
  crcok := by rw [Results.crcok, hr.aal5st]; exact h.crcok

/-- The trailer function shows the trailer when the guards hold (R201 to R204). -/
theorem showsTrailer_aal5Results (s : State) (aal : AalKind) (r : Results) (hg : TrailerGuards s aal) :
    (aal5Results s aal r).ShowsTrailer s := by
  have hlen : s.trailerLength = s.lengthField := trailerLength_eq s (by have := hg.g3; omega)
  rw [aal5Results, if_pos ((trailerPresent_iff s aal).mpr hg), writeCrc_writeTrailer]
  constructor
  · exact trlp_trailerStatus _ _ _
  · rw [← hlen]
    exact congrArg BitVec.toNat (getField_putField_same _ 16 (s.be16 (s.capLen - 6)) (by decide))
  · have hpad := hg.trailerPad_le
    rw [Results.pad, pad_trailerStatus, BitVec.toNat_ofNat, Nat.mod_eq_of_lt (by omega), State.trailerPad, hlen]
  · exact crcok_trailerStatus _ _ _

/-- Over results without a trailer, the trailer function shows one only when the guards hold (R201, R208). -/
theorem guards_of_trlp_aal5Results (s : State) (aal : AalKind) (r : Results) (hr : r.trlp = false)
    (h : (aal5Results s aal r).trlp = true) : TrailerGuards s aal ∧ (aal5Results s aal r).ShowsTrailer s := by
  by_cases hg : TrailerGuards s aal
  · exact ⟨hg, showsTrailer_aal5Results s aal r hg⟩
  · rw [aal5Results_of_absent s aal r hg, hr] at h
    cases h

/-! ### The parts that write no trailer -/

theorem sameTrailer_raiseTooShort (r : Results) : r.SameTrailer (raiseTooShort r).results := ⟨rfl, rfl, rfl, rfl⟩

/-- The HEC check writes no trailer field (R140). -/
theorem sameTrailer_writeHec (c : HecResult × Byte) (r : Results) : r.SameTrailer (writeHec c r) := by
  rw [writeHec]
  cases c.1 <;> exact ⟨rfl, rfl, rfl, rfl⟩

theorem sameTrailer_hecCheckBody (s : State) (r : Results) : r.SameTrailer (hecCheckBody s r).results := by
  rw [hecCheckBody]
  split
  · exact sameTrailer_raiseTooShort r
  · exact sameTrailer_writeHec _ r

/-- The header parse writes no trailer field (R171, R174). -/
theorem sameTrailer_parseHeader (s : State) (ref : RefPoint) (hecp : Bool) (r : Results) :
    r.SameTrailer (parseHeader s ref hecp r).results := by
  have hw : r.SameTrailer (writeHeader s ref r) := ⟨rfl, rfl, rfl, rfl⟩
  have hb : (writeHeader s ref r).SameTrailer (writeHecByte s (writeHeader s ref r)) := ⟨rfl, rfl, rfl, rfl⟩
  rw [parseHeader]
  split
  · exact sameTrailer_raiseTooShort r
  · split
    · exact (hw.trans hb).trans (sameTrailer_writeHec _ _)
    · exact hw

/-- The dispatch writes no trailer field (R241 to R254). -/
theorem sameTrailer_dispatchPayload (s : State) (noph hintv : Bool) (aal : AalKind) (w : Window) (r : Results)
    (hu : r.Unrouted) : r.SameTrailer (dispatchPayload s noph hintv aal w r).results := by
  obtain ⟨-, h⟩ | ⟨-, ⟨_, _, _, h, -⟩⟩ := dispatchPayload_cases s noph hintv aal w r hu.route hu.key
  all_goals rw [h]; exact ⟨rfl, rfl, rfl, rfl⟩

/-- PROCESS_CELL writes no trailer field (R280, R283). -/
theorem sameTrailer_processCellBody (s : State) (ref : RefPoint) (hecp noph hintv : Bool) (aal : AalKind) :
    Results.zero.SameTrailer (processCellBody ref hecp noph hintv aal s Results.zero).results := by
  have hp := sameTrailer_parseHeader s ref hecp Results.zero
  rw [processCellBody]
  by_cases hs : s.capLen < 4 + hecp.toNat
  · rw [parseHeader_of_short s ref hecp _ hs] at hp ⊢
    exact hp
  · rw [parseHeader_of_captured s ref hecp (Nat.le_of_not_lt hs)] at hp ⊢
    obtain ⟨route, key, running⟩ := unrouted_parsedResults ref hecp s.headerNumber
    have ho : ∀ (oam : Bool) (r : Results), r.SameTrailer (writeOam oam r) := fun _ _ => ⟨rfl, rfl, rfl, rfl⟩
    exact (hp.trans (ho _ _)).trans (sameTrailer_dispatchPayload _ _ _ _ _ _ ⟨route, key, running⟩)

/-- The cell count shows no trailer (R206). -/
theorem trlp_cellCount (s : State) : (cellCount s Results.zero).trlp = false := by
  rw [cellCount_zero]
  split <;> simp [Results.trlp]

/-! ### Every command that shows a trailer -/

/-- A body that shows a trailer has found the guards to hold, and shows the trailer of the capture (R201, R283). -/
theorem guards_of_trlp_bodyOf (i : Instr) (s : State) (h : (bodyOf i s Results.zero).results.trlp = true) :
    ∃ aal, TrailerGuards s aal ∧ (bodyOf i s Results.zero).results.ShowsTrailer s := by
  have none_shown : ¬ Results.zero.SameTrailer (bodyOf i s Results.zero).results := fun hz => by
    rw [hz.trlp] at h
    exact absurd h (by decide)
  cases i with
  | hecCheck => exact absurd (sameTrailer_hecCheckBody s _) none_shown
  | hdrParse ref hecp => exact absurd (sameTrailer_parseHeader s ref hecp _) none_shown
  | oamClassify => exact absurd ⟨rfl, rfl, rfl, rfl⟩ none_shown
  | aal5Trailer aal =>
    obtain ⟨hg, ht⟩ := guards_of_trlp_aal5Results s aal Results.zero (by decide) h
    exact ⟨aal, hg, ht.congr ⟨rfl, rfl, rfl, rfl⟩⟩
  | cellCount => exact absurd (h.symm.trans (trlp_cellCount s)) (by decide)
  | dispatch noph hintv aal =>
    exact absurd (sameTrailer_dispatchPayload s noph hintv aal _ _ unrouted_zero) none_shown
  | processCell ref hecp noph hintv aal =>
    exact absurd (sameTrailer_processCellBody s ref hecp noph hintv aal) none_shown
  | processPdu noph hintv aal =>
    have hd := sameTrailer_dispatchPayload s noph hintv aal (aal5Window s aal) _
      ((unrouted_zero.cellCount s).aal5Results s aal)
    obtain ⟨hg, ht⟩ := guards_of_trlp_aal5Results s aal _ (trlp_cellCount s) (hd.trlp.symm.trans h)
    exact ⟨aal, hg, ht.congr hd⟩

/-- A command that shows a trailer has found the guards to hold, and shows the trailer of the capture (R201, R311). -/
theorem guards_of_trlp_exec (s t : State) (i : Instr) (ht : exec i s = .next t) (h : t.res.trlp = true) :
    ∃ aal, TrailerGuards s aal ∧ t.res.ShowsTrailer s := by
  rw [eq_of_exec i s t ht] at h ⊢
  by_cases hfits : s.Fits
  · rw [runCommand_of_fits s _ hfits] at h ⊢
    obtain ⟨aal, hg, hs⟩ := guards_of_trlp_bodyOf i s h
    exact ⟨aal, hg, hs.congr ⟨rfl, rfl, rfl, rfl⟩⟩
  · rw [runCommand_of_not_fits s _ hfits] at h
    exact absurd (show Results.zero.trlp = true from h) (by decide)

/-- Settles O25: the bounds are the guards, said of the length and the padding shown. -/
theorem trailerBounds : Obligations.TrailerBounds := by
  intro s t i ht h
  obtain ⟨aal, ⟨_, hrep, hcap, ⟨hpos, hlen⟩, hpad⟩, hs⟩ := guards_of_trlp_exec s t i ht h
  rw [hs.length, hs.pad]
  omega

/-! ### Which bytes decide on the trailer (R207) -/

theorem capLen_congr {s s' : State} (hreq : s'.req = s.req) : s'.capLen = s.capLen := by
  rw [State.capLen, hreq, State.capLen]

theorem wholeWindow_congr {s s' : State} (hreq : s'.req = s.req) : s'.wholeWindow = s.wholeWindow := by
  rw [State.wholeWindow, State.capLen, State.repLen, hreq]
  rfl

/-- The guards read the request registers and the length field alone. -/
theorem trailerGuards_congr {s s' : State} (hreq : s'.req = s.req) (hl : s'.lengthField = s.lengthField)
    (aal : AalKind) : TrailerGuards s' aal ↔ TrailerGuards s aal := by
  have hcap := capLen_congr hreq
  have hrep : s'.repLen = s.repLen := by rw [State.repLen, hreq, State.repLen]
  constructor <;> rintro ⟨g1, g2, g3, g4, g5⟩
  · exact ⟨g1, by omega, by omega, by omega, by omega⟩
  · exact ⟨g1, by omega, by omega, by omega, by omega⟩

/-- The windows agree: both are the content, of the length that the field gives, or both are the whole capture. -/
theorem aal5Window_congr {s s' : State} (hreq : s'.req = s.req) (hl : s'.lengthField = s.lengthField)
    (aal : AalKind) : aal5Window s' aal = aal5Window s aal := by
  have hiff := trailerGuards_congr hreq hl aal
  by_cases hg : TrailerGuards s aal
  · rw [aal5Window_of_present s aal hg, aal5Window_of_present s' aal (hiff.mpr hg), hl]
  · rw [aal5Window_of_absent s aal hg, aal5Window_of_absent s' aal (mt hiff.mp hg),
      wholeWindow_congr hreq]

/-- The trailer function agrees on the presence, the length and the padding. -/
theorem shown_aal5Results_congr {s s' : State} (hreq : s'.req = s.req) (hl : s'.lengthField = s.lengthField)
    (aal : AalKind) (r : Results) :
    (aal5Results s' aal r).trlp = (aal5Results s aal r).trlp ∧
      (aal5Results s' aal r).length = (aal5Results s aal r).length ∧
      (aal5Results s' aal r).pad = (aal5Results s aal r).pad := by
  have hiff := trailerGuards_congr hreq hl aal
  by_cases hg : TrailerGuards s aal
  · have h := showsTrailer_aal5Results s aal r hg
    have h' := showsTrailer_aal5Results s' aal r (hiff.mpr hg)
    have hcap := capLen_congr hreq
    refine ⟨h'.trlp.trans h.trlp.symm, BitVec.eq_of_toNat_eq ?_, BitVec.eq_of_toNat_eq ?_⟩
    · rw [h'.length, h.length, hl]
    · rw [h'.pad, h.pad, hl, capLen_congr hreq]
  · rw [aal5Results_of_absent s aal r hg, aal5Results_of_absent s' aal r (mt hiff.mp hg)]
    exact ⟨rfl, rfl, rfl⟩

/-- Settles O27: the captures both fit or both do not, and the trailer function and its window agree. -/
theorem paddingUuAndCpiAreNotChecked : Obligations.PaddingUuAndCpiAreNotChecked := by
  intro s s' t t' aal hreq hhigh hlow ht ht'
  have hcap := capLen_congr hreq
  have hl : s'.lengthField = s.lengthField := by rw [State.lengthField, hcap, hhigh, hlow, State.lengthField]
  have hw := aal5Window_congr hreq hl aal
  obtain ⟨trlp, length, pad⟩ := shown_aal5Results_congr hreq hl aal Results.zero
  rw [eq_of_exec _ s t ht, eq_of_exec _ s' t' ht']
  by_cases hfits : s.Fits
  · have hfits' : s'.Fits := by rwa [State.Fits, hcap]
    rw [runCommand_of_fits s _ hfits, runCommand_of_fits s' _ hfits']
    exact ⟨trlp, length, pad, congrArg (fun w : Window => BitVec.ofNat 32 w.off) hw,
      congrArg (fun w : Window => BitVec.ofNat 32 w.len) hw, congrArg (fun w : Window => BitVec.ofNat 32 w.rep) hw⟩
  · have hfits' : ¬ s'.Fits := by rwa [State.Fits, hcap]
    rw [runCommand_of_not_fits s _ hfits, runCommand_of_not_fits s' _ hfits']
    exact ⟨rfl, rfl, rfl, rfl, rfl, rfl⟩

end Sys2Proof.Machine
end

section
/-! PROOFS, the family of AAL5_TRAILER and CELL_COUNT. The CRC as a linear map that loses nothing, and its check
(spec/42_aal5.md R203, R204, R209). -/

namespace Sys2Proof.Machine

theorem crcStep_of_top_clear (z : Word) (h : z.getLsbD 31 = false) : crcStep z = z <<< 1 := by
  rw [crcStep, h, if_neg Bool.false_ne_true]

theorem crcStep_of_top_set (z : Word) (h : z.getLsbD 31 = true) : crcStep z = z <<< 1 ^^^ Config.crcPoly := by
  rw [crcStep, if_pos h]

/-- One step of the CRC is linear. -/
theorem crcStep_xor (x y : Word) : crcStep (x ^^^ y) = crcStep x ^^^ crcStep y := by
  have hstep : ∀ z : Word, crcStep z = z <<< 1 ^^^ (if z.getLsbD 31 then Config.crcPoly else 0) := by
    intro z
    cases h : z.getLsbD 31 with
    | true => exact crcStep_of_top_set z h
    | false => exact (crcStep_of_top_clear z h).trans BitVec.xor_zero.symm
  rw [hstep, hstep x, hstep y, xor_xor_xor_comm, BitVec.shiftLeft_xor_distrib, BitVec.getLsbD_xor]
  cases x.getLsbD 31 <;> cases y.getLsbD 31 <;> rfl

/-- Any number of steps is linear. -/
theorem crcStep_iterate_xor (k : Nat) (x y : Word) : crcStep^[k] (x ^^^ y) = crcStep^[k] x ^^^ crcStep^[k] y :=
  Function.Semiconj₂.iterate crcStep_xor k x y

/-- Only 0 steps to 0: the polynomial has the term 1, so bit 0 of the next register is the bit that was shifted out. -/
theorem eq_zero_of_crcStep_eq_zero (z : Word) (h : crcStep z = 0) : z = 0 := by
  cases htop : z.getLsbD 31 with
  | true =>
    have hbit : (z <<< 1 ^^^ Config.crcPoly).getLsbD 0 = false := by
      rw [← crcStep_of_top_set z htop, h]
      rfl
    rw [BitVec.getLsbD_xor, show Config.crcPoly.getLsbD 0 = true by decide] at hbit
    simp at hbit
  | false =>
    have hshift : z <<< 1 = 0 := by rw [← crcStep_of_top_clear z htop, h]
    apply BitVec.eq_of_getLsbD_eq
    intro i hi
    by_cases h31 : i = 31
    · rw [h31, htop]
      rfl
    · have hi' : i + 1 < 32 := by omega
      have hbit := congrArg (BitVec.getLsbD · (i + 1)) hshift
      simpa [hi', BitVec.getLsbD_eq_getElem hi] using hbit

/-- No step loses information. -/
theorem crcStep_injective : Function.Injective crcStep := fun x y hxy =>
  BitVec.xor_eq_zero_iff.mp (eq_zero_of_crcStep_eq_zero _ (by rw [crcStep_xor, hxy, BitVec.xor_self]; rfl))

/-- A byte that does not pass the top is only shifted. -/
theorem crcStep_iterate_byte (b : Byte) (j k : Nat) (h : j + k ≤ 24) :
    crcStep^[k] (b.setWidth 32 <<< j) = b.setWidth 32 <<< (j + k) := by
  induction k with
  | zero => rfl
  | succ k ih =>
    have htop : (b.setWidth 32 <<< (j + k)).getLsbD 31 = false := by
      have h8 : 8 ≤ 31 - (j + k) := by omega
      simp [BitVec.getLsbD_of_ge b _ h8]
    rw [Function.iterate_succ_apply', ih (by omega), crcStep_of_top_clear _ htop, ← BitVec.shiftLeft_add,
      Nat.add_assoc]

/-- Eight steps move a byte below the top up by its width. -/
theorem crcStep_eight_xor_byte (x : Word) (b : Byte) (j : Nat) (h : j ≤ 16) :
    crcStep^[8] (x ^^^ (b.setWidth 32 <<< j)) = crcStep^[8] x ^^^ (b.setWidth 32 <<< (j + 8)) := by
  rw [crcStep_iterate_xor, crcStep_iterate_byte b j 8 (by omega)]

/-- Four bytes as the sum of each at its place. -/
theorem append_bytes_eq_xor (b0 b1 b2 b3 : Byte) :
    b0 ++ b1 ++ b2 ++ b3 = (b0.setWidth 32 <<< 24) ^^^ (b1.setWidth 32 <<< 16) ^^^ (b2.setWidth 32 <<< 8) ^^^
      (b3.setWidth 32 <<< 0) := by
  apply BitVec.eq_of_getLsbD_eq
  intro k hk
  simp only [BitVec.getLsbD_append, BitVec.getLsbD_xor, BitVec.getLsbD_shiftLeft, BitVec.getLsbD_setWidth]
  interval_cases k <;> simp

/-- The CRC takes in four bytes as one word: each byte reaches the top when its turn comes. -/
theorem crcFrom_four_bytes (c : Word) (b0 b1 b2 b3 : Byte) :
    crcFrom c [b0, b1, b2, b3] = crcStep^[32] (c ^^^ (b0 ++ b1 ++ b2 ++ b3)) := by
  have hsplit : ∀ x, crcStep^[32] x = crcStep^[8] (crcStep^[8] (crcStep^[8] (crcStep^[8] x))) := fun x => by
    simp only [← Function.iterate_add_apply]
  rw [hsplit, append_bytes_eq_xor]
  simp (disch := decide) only [← BitVec.xor_assoc, crcStep_eight_xor_byte]
  rfl

/-- A slice with one more byte. -/
theorem dataSlice_succ (s : State) (off len : Nat) :
    s.dataSlice off (len + 1) = s.dataSlice off len ++ [s.dataByte (off + len)] := by
  simp [State.dataSlice, List.range_succ]

/-- The CRC of the PDU is that of the bytes before the CRC field, with the field taken in as one word. -/
theorem pduCrc_eq (s : State) (h : 4 ≤ s.capLen) :
    s.pduCrc = crcStep^[32] (crc32mpeg2 (s.dataSlice 0 (s.capLen - 4)) ^^^ s.be32 (s.capLen - 4)) := by
  obtain ⟨m, hm⟩ : ∃ m, s.capLen = m + 4 := ⟨s.capLen - 4, by omega⟩
  have hslice : s.dataSlice 0 (m + 4) =
      s.dataSlice 0 m ++ [s.dataByte m, s.dataByte (m + 1), s.dataByte (m + 2), s.dataByte (m + 3)] := by
    simp [dataSlice_succ]
  rw [State.pduCrc, hm, Nat.add_sub_cancel, hslice, crc32mpeg2, crcFrom, List.foldl_append]
  exact crcFrom_four_bytes _ _ _ _ _

/-- The residue is the CRC, started from 0, of four bytes FF (R209). -/
theorem crcFrom_zero_ones : crcFrom 0 [0xFF, 0xFF, 0xFF, 0xFF] = Config.crcResidue := by
  decide +kernel

/-- The CRC of the PDU is the residue exactly when the CRC field is the complement of the CRC before it (R209). -/
theorem pduCrc_eq_residue_iff (s : State) (h : 4 ≤ s.capLen) :
    s.pduCrc = Config.crcResidue ↔ s.be32 (s.capLen - 4) = ~~~ crc32mpeg2 (s.dataSlice 0 (s.capLen - 4)) := by
  rw [pduCrc_eq s h, ← crcFrom_zero_ones, crcFrom_four_bytes, (crcStep_injective.iterate 32).eq_iff]
  generalize crc32mpeg2 (s.dataSlice 0 (s.capLen - 4)) = c
  rw [← BitVec.xor_right_inj (y := ~~~c) c, ← BitVec.not_xor_right, BitVec.xor_self]
  rfl

/-- Settles O26: `CRCOK` is the comparison with the residue, which the four FF bytes give and the steps keep apart. -/
theorem crcCheckPassesExactlyForTheInvertedCrc : Obligations.CrcCheckPassesExactlyForTheInvertedCrc := by
  refine ⟨fun s t i ht h => ?_, crcFrom_zero_ones, by decide +kernel⟩
  obtain ⟨aal, hg, hs⟩ := guards_of_trlp_exec s t i ht h
  rw [hs.crcok, beq_iff_eq, pduCrc_eq_residue_iff s (by have := hg.g3; omega)]

end Sys2Proof.Machine
end

section
/-! PROOFS, the family of DISPATCH. The results of the command for each AAL kind, as the words that it writes on cleared
results (spec/43_dispatch.md R240 to R254). -/

namespace Sys2Proof.Machine

/-! ### What `Emit` leaves on cleared results (R241) -/

/-- The results of a DISPATCH that decides a route: the AAL kind, the word of `RES_ROUTE`, the key and the window. -/
def Results.dispatched (aal : AalKind) (word key : Word) (w : Window) : Results :=
  { Results.zero with
    cls := 4#32 ||| (aal.code.setWidth 32 <<< 4)
    route := word
    key := key
    outoff := BitVec.ofNat 32 w.off
    outlen := BitVec.ofNat 32 w.len
    outrep := BitVec.ofNat 32 w.rep }

/-- `RES_CLASS` on cleared bits: `AALEV`, and the kind above it (R43, R241). -/
theorem writeAale_clear (aal : AalKind) (r : Results) (h : r.cls = 0) :
    writeAale aal r = { r with cls := 4#32 ||| (aal.code.setWidth 32 <<< 4) } := by
  rw [writeAale, h, putField_zero, putField_bit_true _ 2 (by decide), BitVec.or_comm]
  rfl

theorem emit_writeAale_zero (route : Route) (aal : AalKind) (w : Window) :
    emit route w (writeAale aal Results.zero) =
      .running (Results.dispatched aal (route.code.setWidth 32) 0 w) := by
  rw [writeAale_clear aal _ rfl, emit, Results.zero_route, putField_zero, BitVec.shiftLeft_zero]
  rfl

/-- A table route shows the key (R243, R253). -/
theorem emitTable_writeAale_zero (route : Route) (aal : AalKind) (key : Word) (w : Window)
    (h : route = .table5 ∨ route = .table2) :
    emitTable route key w (writeAale aal Results.zero) =
      .running (Results.dispatched aal (if route = .table5 then 0x12 else 0x19) key w) := by
  rw [writeAale_clear aal _ rfl, emitTable, emit, Results.zero_route, table_word route h]
  rfl

/-! ### The parts of the payload dispatcher -/

/-- A table takes a payload when the hint is known and the table accepts it (R243, R253). -/
theorem tableAccepts_iff (table : Word → List Byte → Bool) (s : State) (hintv : Bool) (w : Window) :
    tableAccepts table s hintv w = true ↔ hintv = true ∧ table s.req.arg (s.dataSlice w.off w.len) = true := by
  cases hintv <;> simp [tableAccepts, State.hint, State.windowBytes]

section
variable (s : State) (hintv : Bool) (w : Window) (r : Results)

theorem dispatchAal5_of_takes (h : s.Table5Takes hintv w.off w.len) :
    dispatchAal5 s hintv w r = emitTable .table5 s.req.arg w r :=
  if_pos ((tableAccepts_iff _ s hintv w).mpr h)

theorem dispatchAal5_of_sniffed (h : ¬ s.Table5Takes hintv w.off w.len) (hlen : 7 < w.len) :
    dispatchAal5 s hintv w r = sniff s w r :=
  (if_neg (mt (tableAccepts_iff _ s hintv w).mp h)).trans (if_pos hlen)

theorem dispatchAal5_of_few (h : ¬ s.Table5Takes hintv w.off w.len) (hlen : w.len ≤ 7) :
    dispatchAal5 s hintv w r = emit .raw w r :=
  (if_neg (mt (tableAccepts_iff _ s hintv w).mp h)).trans (if_neg (Nat.not_lt.mpr hlen))

theorem dispatchAal2Table_of_takes (h : s.Table2Takes hintv w.off w.len) :
    dispatchAal2Table s hintv w r = emitTable .table2 s.req.arg w r :=
  if_pos ((tableAccepts_iff _ s hintv w).mpr h)

theorem dispatchAal2Table_of_not_takes (h : ¬ s.Table2Takes hintv w.off w.len) :
    dispatchAal2Table s hintv w r = emit .raw w r :=
  if_neg (mt (tableAccepts_iff _ s hintv w).mp h)

theorem dispatchAal2_of_short (h : w.len < 4) : dispatchAal2 s false hintv w r = raiseTooShort r :=
  if_pos h

/-- The table sees the payload behind the sub-header, when there is one (R252). -/
theorem dispatchAal2_of_captured (noph : Bool) (h : noph = true ∨ 4 ≤ w.len) :
    dispatchAal2 s noph hintv w r = dispatchAal2Table s hintv (w.strip (if noph then 0 else 4)) r := by
  cases noph with
  | true => rfl
  | false => exact if_neg (not_lt.mpr (h.resolve_left Bool.false_ne_true))

end

/-! ### The sniff (R244 to R251) -/

/-- `RES_ROUTE` after a sniff from offset `off` on: the code of the route and, for IP, the version (R48, R249). -/
def State.sniffWord (s : State) (off : Nat) : Word :=
  (s.sniffCode off).setWidth 32 |||
    (if s.sniffCode off = 8 then BitVec.ofNat 32 ((s.dataByte off).toNat / 16) <<< 8 else 0#32)

/-- The window after a sniff: bridged Ethernet strips its pad (R246). -/
def State.sniffWindow (s : State) (w : Window) : Window := if s.sniffCode w.off = 5 then w.strip 2 else w

/-- `RES_ROUTE` of the IP route: the code, and the version in bits 11:8 (R48, R249). -/
theorem ip_word_eq (b : Byte) :
    putField (putField 0 8 (b.extractLsb' 4 4)) 0 Route.ip.code =
      8#32 ||| (BitVec.ofNat 32 (b.toNat / 16) <<< 8) := by
  rw [← upperNibble_word]
  generalize b.extractLsb' 4 4 = n
  revert n
  decide

theorem Route.code_eq_five_iff (route : Route) : route.code = 5 ↔ route = .ethBridged := by
  cases route <;> decide

theorem Route.code_eq_eight_iff (route : Route) : route.code = 8 ↔ route = .ip := by
  cases route <;> decide

/-- The sniff on cleared results writes the word and the window of the first pattern that matches. -/
theorem sniff_writeAale_zero (s : State) (aal : AalKind) (w : Window) :
    sniff s w (writeAale aal Results.zero) =
      .running (Results.dispatched aal (s.sniffWord w.off) 0 (s.sniffWindow w)) := by
  rw [State.sniffWord, State.sniffWindow, ← sniffAt_code, sniff]
  split
  · next h =>
    rw [h, if_neg (by decide), if_pos (show Route.ethBridged.code = 5 from rfl), BitVec.or_zero]
    exact emit_writeAale_zero .ethBridged aal (w.strip 2)
  · next h =>
    rw [h, if_pos (show Route.ip.code = 8 from rfl), if_neg (by decide), writeAale_clear aal Results.zero rfl, emit,
      Results.zero_route, ip_word_eq]
    rfl
  · next route heth hip =>
    rw [if_neg (mt (Route.code_eq_five_iff _).mp heth), if_neg (mt (Route.code_eq_eight_iff _).mp hip), BitVec.or_zero]
    exact emit_writeAale_zero _ aal w

/-! ### DISPATCH (R240) -/

/-- The whole captured buffer without its first `k` bytes. -/
theorem wholeWindow_strip (s : State) (k : Nat) :
    s.wholeWindow.strip k = { off := k, len := min s.capLen s.repLen - k, rep := s.repLen - k } := by
  rw [Window.strip, State.wholeWindow, Nat.zero_add]

end Sys2Proof.Machine

-- In `Sys2Proof.Machine` the names of O30 and O31 are those of the model's own functions.
namespace Sys2Proof
open Machine

/-- Settles O30: the table, the sniff and `RAW` exclude each other, and each writes its word and its window. -/
theorem dispatchAal5 : Obligations.DispatchAal5 := by
  intro s noph hintv hfits len
  have ends (r : Results) := exec_of_running (.dispatch noph hintv .aal5) s r hfits
  refine ⟨fun h => ends _ ?_, fun h hlen => ends _ ?_, fun h hlen => ends _ ?_⟩
  · exact (dispatchAal5_of_takes s hintv s.wholeWindow _ h).trans (emitTable_writeAale_zero _ _ _ _ (.inl rfl))
  · refine ((dispatchAal5_of_sniffed s hintv s.wholeWindow _ h hlen).trans (sniff_writeAale_zero s _ _)).trans ?_
    have hw : s.sniffWindow s.wholeWindow = if s.sniffCode 0 = 5 then s.wholeWindow.strip 2 else s.wholeWindow := rfl
    rw [hw, wholeWindow_strip]
    split <;> rfl
  · exact (dispatchAal5_of_few s hintv s.wholeWindow _ h hlen).trans (emit_writeAale_zero _ _ _)

/-- Settles O31: the sub-header is stripped unless there is none, and the table or `RAW` takes the window behind it. -/
theorem dispatchAal2 : Obligations.DispatchAal2 := by
  intro s noph hintv hfits len k
  have ends (r : Results) := exec_of_running (.dispatch noph hintv .aal2) s r hfits
  have strip (h : noph = true ∨ 4 ≤ len) (r : Results) := dispatchAal2_of_captured s hintv s.wholeWindow r noph h
  rw [wholeWindow_strip] at strip
  refine ⟨fun hnoph hlen => ?_, fun h htakes => ends _ ((strip h _).trans ?_),
    fun h htakes => ends _ ((strip h _).trans ?_)⟩
  · subst hnoph
    exact exec_of_raiseTooShort (.dispatch false hintv .aal2) s _ hfits (dispatchAal2_of_short s hintv _ _ hlen)
  · exact (dispatchAal2Table_of_takes s hintv _ _ htakes).trans (emitTable_writeAale_zero _ _ _ _ (.inr rfl))
  · exact (dispatchAal2Table_of_not_takes s hintv _ _ htakes).trans (emit_writeAale_zero _ _ _)

/-- Settles O29: neither the hint nor a byte is read. -/
theorem dispatchSignalling : Obligations.DispatchSignalling :=
  fun s noph hintv hfits =>
    exec_of_running (.dispatch noph hintv .signallingAal) s _ hfits (emit_writeAale_zero .sscop .signallingAal _)

/-- Settles O32: the five kinds go to `RAW` by one `Emit`. -/
theorem dispatchEverythingElseIsRaw : Obligations.DispatchEverythingElseIsRaw := by
  intro s noph hintv aal hfits haal
  have hbody : bodyOf (.dispatch noph hintv aal) s Results.zero =
      emit .raw s.wholeWindow (writeAale aal Results.zero) := by
    rcases haal with rfl | rfl | rfl | rfl | rfl <;> rfl
  exact exec_of_running (.dispatch noph hintv aal) s _ hfits (hbody.trans (emit_writeAale_zero .raw aal _))

end Sys2Proof
end

section
/-! PROOFS, the family of DISPATCH. What every command that dispatches does, and the window that every command hands on
(spec/43_dispatch.md R255, R256). -/

namespace Sys2Proof.Machine

/-! ### The results that hand on no window -/

/-- No window is handed on yet (R59, R241). -/
structure Results.NoWindow (r : Results) : Prop where
  outoff : r.outoff = 0
  outlen : r.outlen = 0
  outrep : r.outrep = 0

theorem noWindow_zero : Results.zero.NoWindow := ⟨rfl, rfl, rfl⟩

/-- `TooShort` keeps the window registers (R312). -/
theorem Results.NoWindow.raiseTooShort {r : Results} (h : r.NoWindow) : (raiseTooShort r).results.NoWindow :=
  ⟨h.outoff, h.outlen, h.outrep⟩

theorem noWindow_parsedResults (ref : RefPoint) (hecp : Bool) (h : BitVec 40) :
    (parsedResults ref hecp h).NoWindow := by
  cases hecp <;> exact ⟨rfl, rfl, rfl⟩

theorem Results.NoWindow.writeOam {r : Results} (h : r.NoWindow) (oam : Bool) : (writeOam oam r).NoWindow :=
  ⟨h.outoff, h.outlen, h.outrep⟩

theorem noWindow_parseHeader (s : State) (ref : RefPoint) (hecp : Bool) :
    (parseHeader s ref hecp Results.zero).results.NoWindow := by
  by_cases hs : s.capLen < 4 + hecp.toNat
  · rw [parseHeader_of_short s ref hecp _ hs]
    exact noWindow_zero.raiseTooShort
  · rw [parseHeader_of_captured s ref hecp (Nat.le_of_not_lt hs)]
    exact noWindow_parsedResults ref hecp _

theorem noWindow_hecCheckBody (s : State) : (hecCheckBody s Results.zero).results.NoWindow := by
  by_cases hs : s.capLen < 5
  · rw [hecCheckBody_of_short s _ hs]
    exact noWindow_zero.raiseTooShort
  · rw [hecCheckBody_of_captured s (Nat.le_of_not_lt hs)]
    exact ⟨rfl, rfl, rfl⟩

/-- The cell count writes no window (R206). -/
theorem noWindow_cellCount (s : State) : (cellCount s Results.zero).NoWindow := by
  rw [cellCount_zero]
  split <;> exact ⟨rfl, rfl, rfl⟩

/-- The trailer function leaves the window registers to its caller (R200, R290). -/
theorem Results.NoWindow.aal5Results {r : Results} (h : r.NoWindow) (s : State) (aal : AalKind) :
    (aal5Results s aal r).NoWindow := by
  unfold Machine.aal5Results
  split
  · rw [writeCrc_writeTrailer]
    exact ⟨h.outoff, h.outlen, h.outrep⟩
  · exact h

/-! ### The commands that dispatch -/

/-- The classifier decides no route (R180, R280). -/
theorem Results.Unrouted.writeOam {r : Results} (h : r.Unrouted) (oam : Bool) : (writeOam oam r).Unrouted :=
  ⟨h.route, h.key, h.running⟩

/-- PROCESS_CELL ends in a parse that is too short (R172, R280). -/
theorem processCellBody_of_short (s : State) (ref : RefPoint) (hecp noph hintv : Bool) (aal : AalKind) (r : Results)
    (h : s.capLen < 4 + hecp.toNat) : processCellBody ref hecp noph hintv aal s r = raiseTooShort r := by
  rw [processCellBody, parseHeader_of_short s ref hecp r h]
  rfl

/-- PROCESS_CELL goes on with the fields of a captured header (R280). -/
theorem processCellBody_of_captured (s : State) (ref : RefPoint) (hecp noph hintv : Bool) (aal : AalKind)
    (h : 4 + hecp.toNat ≤ s.capLen) :
    processCellBody ref hecp noph hintv aal s Results.zero =
      classifyAndDispatch hecp noph hintv aal s (parsedResults ref hecp s.headerNumber) := by
  rw [processCellBody, parseHeader_of_captured s ref hecp h]
  rfl

/-- The body of a command that dispatches ends in a header parse that is too short, or is one dispatch, over a window
inside the capture and over results that hold neither a route nor a window (R240, R280, R290). -/
theorem bodyOf_of_dispatches (i : Instr) (s : State) (hi : Dispatches i) :
    bodyOf i s Results.zero = raiseTooShort Results.zero ∨
      ∃ noph hintv aal w r, bodyOf i s Results.zero = dispatchPayload s noph hintv aal w r ∧ r.Unrouted ∧ r.NoWindow ∧
        w.off + w.len ≤ s.capLen := by
  cases i with
  | dispatch noph hintv aal =>
    exact .inr ⟨noph, hintv, aal, _, _, rfl, unrouted_zero, noWindow_zero, wholeWindow_inside s⟩
  | processCell ref hecp noph hintv aal =>
    by_cases hs : s.capLen < 4 + hecp.toNat
    · exact .inl (processCellBody_of_short s ref hecp noph hintv aal _ hs)
    · have hl : headerLen hecp ≤ s.capLen := Nat.le_of_not_lt hs
      exact .inr ⟨noph, hintv, _, _, _, processCellBody_of_captured s ref hecp noph hintv aal hl,
        (unrouted_parsedResults ref hecp _).writeOam _, (noWindow_parsedResults ref hecp _).writeOam _,
        cellWindow_inside s _ hl⟩
  | processPdu noph hintv aal =>
    exact .inr ⟨noph, hintv, aal, _, _, rfl, (unrouted_zero.cellCount s).aal5Results s aal,
      (noWindow_cellCount s).aal5Results s aal, aal5Window_inside s aal⟩
  | _ => exact hi.elim

/-! ### One route (R256) -/

/-- The words that a dispatch leaves in `RES_ROUTE` hold a route (R118). -/
theorem routeCode_ne_zero_of_mem_routeWords : ∀ word ∈ routeWords, getField word 0 4 ≠ 0 := by
  simp [routeWords, getField]

theorem tooShort_raiseTooShort (r : Results) : (raiseTooShort r).results.tooShort = true := by
  rw [Results.tooShort, getLsbD_raiseTooShort]
  exact Bool.or_true _

/-- A dispatch that is not too short decides a route (R256). -/
theorem routeCode_dispatchPayload_ne_zero (s : State) (noph hintv : Bool) (aal : AalKind) (w : Window) (r : Results)
    (hu : r.Unrouted) (h : (dispatchPayload s noph hintv aal w r).results.tooShort = false) :
    (dispatchPayload s noph hintv aal w r).results.routeCode ≠ 0 := by
  obtain ⟨-, hf⟩ | ⟨-, ⟨word, key, w', hf, hw, -⟩⟩ := dispatchPayload_cases s noph hintv aal w r hu.route hu.key
  · rw [hf, tooShort_raiseTooShort] at h
    cases h
  · rw [hf]
    exact routeCode_ne_zero_of_mem_routeWords word hw

theorem routeCode_bodyOf_ne_zero (i : Instr) (s : State) (hi : Dispatches i)
    (h : (bodyOf i s Results.zero).results.tooShort = false) : (bodyOf i s Results.zero).results.routeCode ≠ 0 := by
  obtain hb | ⟨noph, hintv, aal, w, r, hb, hu, -⟩ := bodyOf_of_dispatches i s hi
  · rw [hb, tooShort_raiseTooShort] at h
    cases h
  · rw [hb] at h ⊢
    exact routeCode_dispatchPayload_ne_zero s noph hintv aal w r hu h

/-- The IP version is shown exactly for IP, where results are legal (R48, R249, R256). -/
theorem Results.Legal.ipver_ne_zero_iff {r : Results} (h : r.Legal) : r.ipver ≠ 0 ↔ r.routeCode = 8 := by
  constructor
  · exact fun hv => not_imp_comm.mp h.ipver_else hv
  · intro hr hv
    obtain h4 | h6 := h.ipver_ip hr
    · rw [hv] at h4; exact absurd h4 (by decide)
    · rw [hv] at h6; exact absurd h6 (by decide)

/-- Settles O33: every command leaves legal results, and a dispatch that is not too short decides a route. -/
theorem everyDispatchDecidesOneRoute : Obligations.EveryDispatchDecidesOneRoute := by
  intro s t i hi hfits ht
  have hlegal : t.res.Legal := eq_of_exec i s t ht ▸ legal_runCommand i s
  refine ⟨fun hshort => ⟨?_, hlegal.route_le⟩, hlegal.keyv_iff, hlegal.ipver_ne_zero_iff⟩
  rw [eq_of_exec i s t ht, runCommand_of_fits s _ hfits] at hshort ⊢
  exact routeCode_bodyOf_ne_zero i s hi hshort

/-! ### The window (R255) -/

/-- The window that the results hand on lies inside the first `n` bytes. -/
def Results.WindowWithin (r : Results) (n : Nat) : Prop := r.outoff.toNat + r.outlen.toNat ≤ n

theorem Results.NoWindow.windowWithin {r : Results} (h : r.NoWindow) (n : Nat) : r.WindowWithin n := by
  rw [Results.WindowWithin, h.outoff, h.outlen]
  exact Nat.zero_le n

theorem windowWithin_setWindow (r : Results) (w : Window) (n : Nat) (h : w.off + w.len ≤ n) :
    (r.setWindow w).WindowWithin n :=
  le_trans (Nat.add_le_add (Nat.mod_le _ _) (Nat.mod_le _ _)) h

/-- A dispatch hands on a window inside the one it is given, or none (R255). -/
theorem windowWithin_dispatchPayload (s : State) (noph hintv : Bool) (aal : AalKind) (w : Window) (r : Results)
    (hu : r.Unrouted) (hr : r.NoWindow) :
    (dispatchPayload s noph hintv aal w r).results.WindowWithin (w.off + w.len) := by
  obtain ⟨-, hf⟩ | ⟨-, ⟨word, key, w', hf, -, -, -, hw, -⟩⟩ :=
    dispatchPayload_cases s noph hintv aal w r hu.route hu.key
  · rw [hf]
    exact Results.NoWindow.windowWithin ⟨hr.outoff, hr.outlen, hr.outrep⟩ _
  · rw [hf]
    exact windowWithin_setWindow _ w' _ hw

/-- Every command's body hands on a window inside the capture, or none. -/
theorem windowWithin_bodyOf (i : Instr) (s : State) : (bodyOf i s Results.zero).results.WindowWithin s.capLen := by
  have dispatched (hi : Dispatches i) : (bodyOf i s Results.zero).results.WindowWithin s.capLen := by
    obtain hb | ⟨noph, hintv, aal, w, r, hb, hu, hr, hw⟩ := bodyOf_of_dispatches i s hi
    · rw [hb]
      exact noWindow_zero.raiseTooShort.windowWithin _
    · rw [hb]
      exact le_trans (windowWithin_dispatchPayload s noph hintv aal w r hu hr) hw
  cases i with
  | hecCheck => exact (noWindow_hecCheckBody s).windowWithin _
  | hdrParse ref hecp => exact (noWindow_parseHeader s ref hecp).windowWithin _
  | oamClassify => exact Results.NoWindow.windowWithin ⟨rfl, rfl, rfl⟩ _
  | aal5Trailer aal => exact windowWithin_setWindow _ _ _ (aal5Window_inside s aal)
  | cellCount => exact (noWindow_cellCount s).windowWithin _
  | dispatch noph hintv aal => exact dispatched trivial
  | processCell ref hecp noph hintv aal => exact dispatched trivial
  | processPdu noph hintv aal => exact dispatched trivial

/-- Settles O34: a bad command hands on no window, and every other one what its body hands on. -/
theorem windowLiesInsideTheCapture : Obligations.WindowLiesInsideTheCapture := by
  intro s t i ht
  rw [eq_of_exec i s t ht]
  by_cases hfits : s.Fits
  · rw [runCommand_of_fits s _ hfits]
    exact windowWithin_bodyOf i s
  · rw [runCommand_of_not_fits s _ hfits]
    exact noWindow_zero.windowWithin _

end Sys2Proof.Machine
end

section
/-! PROOFS, the family of PROCESS_CELL and PROCESS_PDU. What the parts of the two commands leave of the results they
are given, and what the commands show of each part (spec/44_pipeline.md R281, R283, R291, R292). -/

namespace Sys2Proof.Machine

/-! ### What each part leaves -/

/-- A command whose capture fits shows the results of its body, with its status (R59). -/
theorem res_of_exec (i : Instr) (s t : State) (hfits : s.Fits) (ht : exec i s = .next t) :
    t.res = { (bodyOf i s Results.zero).results with status := statusWord s.req.cmd false } := by
  rw [eq_of_exec i s t ht, runCommand_of_fits s _ hfits]
  rfl

/-- A dispatch writes the class, the route, the key, the window and at most a diagnostic (R241, R312). -/
theorem dispatchPayload_frame (s : State) (noph hintv : Bool) (aal : AalKind) (w : Window) (r : Results)
    (hu : r.Unrouted) :
    ∃ diag route key outoff outlen outrep, (dispatchPayload s noph hintv aal w r).results = { r with
      diag := diag
      cls := (writeAale aal r).cls
      route := route
      key := key
      outoff := outoff
      outlen := outlen
      outrep := outrep } := by
  obtain ⟨-, h⟩ | ⟨-, ⟨_, _, _, h, -⟩⟩ := dispatchPayload_cases s noph hintv aal w r hu.route hu.key
  all_goals rw [h]; exact ⟨_, _, _, _, _, _, rfl⟩

/-- The trailer function writes the trailer's registers and at most a diagnostic (R202, R204). -/
theorem aal5Results_frame (s : State) (aal : AalKind) (r : Results) :
    ∃ diag trl0 trl1 aal5st crcreg, aal5Results s aal r =
      { r with diag := diag, trl0 := trl0, trl1 := trl1, aal5st := aal5st, crcreg := crcreg } := by
  unfold aal5Results
  split
  · rw [writeCrc_writeTrailer]
    exact ⟨_, _, _, _, _, rfl⟩
  · exact ⟨_, _, _, _, _, rfl⟩

/-- Before its dispatch PROCESS_PDU has written the trailer's registers, the count and at most a diagnostic (R290). -/
theorem pdu_frame (s : State) (aal : AalKind) :
    ∃ diag trl0 trl1 aal5st cells crcreg, aal5Results s aal (cellCount s Results.zero) = { Results.zero with
      diag := diag, trl0 := trl0, trl1 := trl1, aal5st := aal5st, cells := cells, crcreg := crcreg } := by
  obtain ⟨_, _, _, _, _, h⟩ := aal5Results_frame s aal (cellCount s Results.zero)
  rw [h, cellCount_zero]
  split <;> exact ⟨_, _, _, _, _, _, rfl⟩

/-- Before its dispatch PROCESS_PDU has decided no route (R290). -/
theorem unrouted_pdu (s : State) (aal : AalKind) : (aal5Results s aal (cellCount s Results.zero)).Unrouted :=
  (unrouted_zero.cellCount s).aal5Results s aal

/-- The trailer function leaves the flag of the cell count (R11, R202, R204). -/
theorem cellsv_aal5Results (s : State) (aal : AalKind) (r : Results) : (aal5Results s aal r).cellsv = r.cellsv := by
  unfold aal5Results
  split
  · rw [writeCrc_writeTrailer]
    exact cellsv_trailerStatus _ _ _
  · rfl

/-- The AAL kind lies beside the classifier's two flags (R43). -/
theorem oamv_writeAale (aal : AalKind) (r : Results) : (writeAale aal r).oamv = r.oamv := by
  simp only [writeAale, Results.oamv, getLsbD_putField]
  simp

theorem oam_writeAale (aal : AalKind) (r : Results) : (writeAale aal r).oam = r.oam := by
  simp only [writeAale, Results.oam, getLsbD_putField]
  simp

/-! ### PROCESS_CELL too short (R280, R312) -/

/-- Settles O36: the parse ends the command before it writes a result. -/
theorem processCellTooShort : Obligations.ProcessCellTooShort :=
  fun s ref hecp noph hintv aal hfits hshort =>
    exec_of_raiseTooShort (.processCell ref hecp noph hintv aal) s _ hfits
      (processCellBody_of_short s ref hecp noph hintv aal _ hshort)

/-! ### The effective AAL kind (R281) -/

/-- Only an unknown or a user-defined kind is upgraded, and only for an OAM cell. -/
theorem effAal_eq (aal : AalKind) (oam : Bool) :
    effAal aal oam = if oam = true ∧ (aal = .unknown ∨ aal = .userAal) then .oamCell else aal := by
  simp [effAal]

/-- Settles O37: the dispatch is given the effective kind over the classifier's result, and leaves the header. -/
theorem effectiveAalKind : Obligations.EffectiveAalKind := by
  intro s t ref hecp noph hintv aal hfits hcap ht
  have hres := res_of_exec _ s t hfits ht
  rw [bodyOf, processCellBody_of_captured s ref hecp noph hintv aal hcap, classifyAndDispatch] at hres
  have hu := unrouted_parsedResults ref hecp s.headerNumber
  generalize parsedResults ref hecp s.headerNumber = parsed at hres hu
  generalize hoam : isOam parsed.vci parsed.pti = oam at hres
  obtain ⟨_, _, _, _, _, _, hframe⟩ := dispatchPayload_frame s noph hintv (effAal aal oam)
    (s.cellWindow (headerLen hecp)) _ (hu.writeOam oam)
  rw [hframe] at hres
  have hhdr0 : t.res.hdr0 = parsed.hdr0 := (congrArg Results.hdr0 hres :)
  have hcls : t.res.cls = (writeAale (effAal aal oam) (writeOam oam parsed)).cls := (congrArg Results.cls hres :)
  have hshown : t.res.oam = oam := by
    rw [Results.oam, hcls]
    exact (oam_writeAale _ _).trans (oam_writeOam oam parsed)
  have haale : t.res.aale = (effAal aal oam).code := by
    rw [Results.aale, hcls]
    exact aale_writeAale _ _
  refine ⟨?_, ?_, ?_, fun hup => ?_, fun hkeep => ?_⟩
  · rw [Results.oamv, hcls]
    exact (oamv_writeAale _ _).trans (oamv_writeOam oam parsed)
  · rw [hshown, ← hoam, isOam_eq_oamTable, Results.vci, Results.pti, ← hhdr0]
    rfl
  · rw [Results.aalev, hcls]
    exact aalev_writeAale _ _
  · rw [hshown] at hup
    rw [haale, effAal_eq, if_pos hup]
    rfl
  · rw [hshown] at hkeep
    rw [haale, effAal_eq, if_neg hkeep]

/-! ### Commands that read no PDU (R283) -/

/-- The other five commands write no register of the trailer (R283). -/
theorem sameTrailer_bodyOf_of_not_readsPdu (i : Instr) (s : State) (hi : ¬ ReadsPdu i) :
    Results.zero.SameTrailer (bodyOf i s Results.zero).results := by
  cases i with
  | hecCheck => exact sameTrailer_hecCheckBody s _
  | hdrParse ref hecp => exact sameTrailer_parseHeader s ref hecp _
  | oamClassify => exact ⟨rfl, rfl, rfl, rfl⟩
  | dispatch noph hintv aal => exact sameTrailer_dispatchPayload s noph hintv aal _ _ unrouted_zero
  | processCell ref hecp noph hintv aal => exact sameTrailer_processCellBody s ref hecp noph hintv aal
  | _ => exact absurd trivial hi

theorem aal5st_of_not_readsPdu (i : Instr) (s t : State) (hi : ¬ ReadsPdu i) (ht : exec i s = .next t) :
    t.res.aal5st = 0 := by
  rw [eq_of_exec i s t ht]
  by_cases hfits : s.Fits
  · rw [runCommand_of_fits s _ hfits]
    exact (sameTrailer_bodyOf_of_not_readsPdu i s hi).aal5st
  · rw [runCommand_of_not_fits s _ hfits]
    rfl

/-- Settles O38: legal results whose `RES_AAL5ST` is 0 show no trailer, no CRC diagnostic and no cell count. -/
theorem noTrailerOutsidePduCommands : Obligations.NoTrailerOutsidePduCommands := by
  intro s t i hi ht
  have hst := aal5st_of_not_readsPdu i s t hi ht
  have hlegal : t.res.Legal := eq_of_exec i s t ht ▸ legal_runCommand i s
  have htrlp : t.res.trlp = false := by rw [Results.trlp, hst]; decide
  have hcellsv : t.res.cellsv = false := by rw [Results.cellsv, hst]; decide
  obtain ⟨trl0, trl1, crcreg, -, -⟩ := hlegal.no_trailer htrlp
  refine ⟨trl0, trl1, hst, hlegal.cells_zero hcellsv, crcreg, Bool.eq_false_iff.mpr fun hbad => ?_⟩
  exact absurd (hlegal.crcBad_iff.mp hbad).1 (Bool.eq_false_iff.mp htrlp)

/-! ### PROCESS_PDU neither classifies nor skips the count (R291, R292) -/

/-- Settles O40: the dispatch writes the AAL kind it is given over a class that is 0, and no header. -/
theorem processPduDoesNotClassify : Obligations.ProcessPduDoesNotClassify := by
  intro s t noph hintv aal hfits ht
  have hres := res_of_exec _ s t hfits ht
  obtain ⟨_, _, _, _, _, _, hframe⟩ := dispatchPayload_frame s noph hintv aal (aal5Window s aal) _ (unrouted_pdu s aal)
  obtain ⟨_, _, _, _, _, _, hpdu⟩ := pdu_frame s aal
  rw [bodyOf, processPduBody, hframe, hpdu] at hres
  have hcls : t.res.cls = (writeAale aal Results.zero).cls := (congrArg Results.cls hres :)
  rw [Results.oamv, Results.oam, Results.aalev, Results.aale, hcls]
  exact ⟨oamv_writeAale aal Results.zero, oam_writeAale aal Results.zero, aalev_writeAale aal Results.zero,
    aale_writeAale aal Results.zero, (congrArg Results.hdr0 hres :), (congrArg Results.hdr1 hres :),
    (congrArg Results.hec hres :)⟩

/-- Settles O41: the count is the first part of the body, and the trailer function and the dispatch keep it. -/
theorem processPduAlwaysCountsCells : Obligations.ProcessPduAlwaysCountsCells := by
  intro s t noph hintv aal hfits ht
  have hres := res_of_exec _ s t hfits ht
  obtain ⟨_, _, _, _, _, _, hframe⟩ := dispatchPayload_frame s noph hintv aal (aal5Window s aal) _ (unrouted_pdu s aal)
  obtain ⟨_, _, _, _, _, hpdu⟩ := aal5Results_frame s aal (cellCount s Results.zero)
  rw [bodyOf, processPduBody, hframe] at hres
  have hcellsv : t.res.cellsv = (cellCount s Results.zero).cellsv :=
    (congrArg Results.cellsv hres :).trans (cellsv_aal5Results s aal _)
  have hcells : t.res.cells = (cellCount s Results.zero).cells :=
    (congrArg Results.cells hres :).trans (congrArg Results.cells hpdu :)
  rw [hcellsv, hcells, cellCount_zero]
  refine ⟨fun h => ?_, fun h => ?_⟩
  · rw [if_pos h]
    exact ⟨show (4#32).getLsbD 2 = true by decide, rfl⟩
  · rw [if_neg h]
    exact ⟨by decide, rfl⟩

/-! ### The early end (R294, R312) -/

/-- No route, no key and no window is shown (R312). -/
structure Results.NothingRouted (r : Results) : Prop where
  route : r.route = 0
  key : r.key = 0
  noWindow : r.NoWindow

/-- A command that dispatches and is too short routes nothing (R312). -/
theorem nothingRouted_of_tooShort (i : Instr) (s t : State) (hi : Dispatches i) (hfits : s.Fits)
    (ht : exec i s = .next t) (h : t.res.tooShort = true) : t.res.NothingRouted := by
  rw [res_of_exec i s t hfits ht] at h ⊢
  obtain hb | ⟨noph, hintv, aal, w, r, hb, hu, hw, -⟩ := bodyOf_of_dispatches i s hi
  · rw [hb]
    exact ⟨rfl, rfl, rfl, rfl, rfl⟩
  · rw [hb] at h ⊢
    obtain ⟨-, hf⟩ | ⟨-, ⟨word, key, w', hf, -⟩⟩ := dispatchPayload_cases s noph hintv aal w r hu.route hu.key
    · rw [hf]
      exact ⟨hu.route, hu.key, hw.outoff, hw.outlen, hw.outrep⟩
    · rw [hf] at h
      exact absurd (hu.running.symm.trans h) Bool.false_ne_true

/-- Settles O43: a dispatch that is too short routes nothing, and every other one decides a route. -/
theorem dataFlowStopsEarlyOnlyWhenTooShort : Obligations.DataFlowStopsEarlyOnlyWhenTooShort := by
  intro s t i hflow hfits ht
  have hi : Dispatches i := by
    obtain ⟨_, _, _, _, _, rfl⟩ | ⟨_, _, _, rfl⟩ := hflow <;> exact trivial
  have hshort := nothingRouted_of_tooShort i s t hi hfits ht
  obtain ⟨hroutes, -, -⟩ := everyDispatchDecidesOneRoute s t i hi hfits ht
  refine ⟨⟨fun h => ?_, fun h => ?_⟩, fun h => ?_⟩
  · rw [Results.routeCode, (hshort h).route]
    decide
  · by_contra hrun
    exact (hroutes (Bool.eq_false_iff.mpr hrun)).1 h
  · obtain ⟨hroute, hkey, hoff, hlen, hrep⟩ := hshort h
    exact ⟨hroute, hkey, hoff, hlen, hrep⟩

end Sys2Proof.Machine
end

section
/-! PROOFS, the family of PROCESS_CELL and PROCESS_PDU. A dispatch of the same payload in another place: the same route,
key and lengths, with the window moved (spec/44_pipeline.md R280, R282, R290, R293). -/

namespace Sys2Proof.Machine

/-! ### The same payload in another place -/

/-- The window `k` bytes further on. -/
def Window.moved (v : Window) (k : Nat) : Window := { v with off := k + v.off }

theorem moved_strip (v : Window) (k n : Nat) : (v.moved k).strip n = (v.strip n).moved k := by
  simp only [Window.moved, Window.strip, Nat.add_assoc]

theorem moved_zero (v : Window) : v.moved 0 = v := by
  simp only [Window.moved, Nat.zero_add]

/-- The bytes that `p` holds in window `v` stand in `s` in the window `k` bytes further on, and the hints agree: a
dispatch reads nothing else (R58, R243, R253). -/
structure SamePayload (s p : State) (v : Window) (k : Nat) : Prop where
  arg : p.req.arg = s.req.arg
  byte : ∀ i, i < v.len → p.dataByte (v.off + i) = s.dataByte (k + v.off + i)

/-- Two dispatches, over results `r` and `r'`, decide alike: both are too short, or both write one route word, one key
and one window, which stands `k` bytes further on in the first. -/
inductive SameRouting (k : Nat) (r r' : Results) (f g : Flow) : Prop
  | short (hf : f = raiseTooShort r) (hg : g = raiseTooShort r')
  | routed (word key : Word) (v : Window)
      (hf : f = .running ({ r with route := word, key := key }.setWindow (v.moved k)))
      (hg : g = .running ({ r' with route := word, key := key }.setWindow v))

section
variable {s p : State} {v : Window} {k : Nat} {r r' : Results}

theorem SamePayload.strip (h : SamePayload s p v k) (n : Nat) : SamePayload s p (v.strip n) k where
  arg := h.arg
  byte i hi := by
    have hi' : i < v.len - n := hi
    have hb := h.byte (n + i) (by omega)
    rwa [← Nat.add_assoc, ← Nat.add_assoc, Nat.add_assoc k] at hb

theorem SamePayload.tableAccepts (h : SamePayload s p v k) (table : Word → List Byte → Bool) (hintv : Bool) :
    tableAccepts table p hintv v = tableAccepts table s hintv (v.moved k) := by
  have hbytes : p.windowBytes v = s.windowBytes (v.moved k) :=
    List.map_congr_left fun i hi => h.byte i (List.mem_range.mp hi)
  rw [Machine.tableAccepts, State.hint, h.arg, hbytes]
  rfl

theorem SamePayload.sniffAt (h : SamePayload s p v k) (h8 : 8 ≤ v.len) :
    p.sniffAt v.off = s.sniffAt (v.moved k).off := by
  have h0 : p.dataByte v.off = s.dataByte (k + v.off) := h.byte 0 (by omega)
  rw [State.sniffAt, h0, h.byte 1 (by omega), h.byte 2 (by omega), h.byte 3 (by omega), h.byte 4 (by omega),
    h.byte 5 (by omega), h.byte 6 (by omega)]
  rfl

/-! ### The parts of the dispatcher decide alike -/

variable (hroute : r'.route = r.route)
include hroute

theorem sameRouting_emitTable (route : Route) (key : Word) (v : Window) (k : Nat) :
    SameRouting k r r' (emitTable route key (v.moved k) r) (emitTable route key v r') := by
  refine .routed (putField (putField r.route 4 (bit true)) 0 route.code) key v rfl ?_
  rw [emitTable, hroute]
  rfl

variable (hkey : r'.key = r.key)
include hkey

theorem sameRouting_emit (route : Route) (v : Window) (k : Nat) :
    SameRouting k r r' (emit route (v.moved k) r) (emit route v r') := by
  refine .routed (putField r.route 0 route.code) r.key v rfl ?_
  rw [emit, hroute, ← hkey]

theorem SamePayload.sniff (h : SamePayload s p v k) (h8 : 8 ≤ v.len) :
    SameRouting k r r' (sniff s (v.moved k) r) (sniff p v r') := by
  have h0 : p.dataByte v.off = s.dataByte (v.moved k).off := h.byte 0 (by omega)
  rw [Machine.sniff, Machine.sniff, h.sniffAt h8, h0]
  generalize s.sniffAt (v.moved k).off = route
  cases route with
  | ethBridged => exact moved_strip v k 2 ▸ sameRouting_emit hroute hkey .ethBridged (v.strip 2) k
  | ip =>
    refine .routed (putField (putField r.route 8 _) 0 Route.ip.code) r.key v rfl ?_
    rw [hroute, ← hkey]
    rfl
  | _ => exact sameRouting_emit hroute hkey _ v k

theorem SamePayload.dispatchAal5 (h : SamePayload s p v k) (hintv : Bool) :
    SameRouting k r r' (dispatchAal5 s hintv (v.moved k) r) (dispatchAal5 p hintv v r') := by
  rw [Machine.dispatchAal5, Machine.dispatchAal5, h.tableAccepts, h.arg]
  split
  · exact sameRouting_emitTable hroute _ _ v k
  · by_cases h8 : Config.sniffMinLen ≤ v.len
    · rw [if_pos h8, if_pos (show Config.sniffMinLen ≤ (v.moved k).len from h8)]
      exact h.sniff hroute hkey h8
    · rw [if_neg h8, if_neg (show ¬ Config.sniffMinLen ≤ (v.moved k).len from h8)]
      exact sameRouting_emit hroute hkey .raw v k

theorem SamePayload.dispatchAal2Table (h : SamePayload s p v k) (hintv : Bool) :
    SameRouting k r r' (dispatchAal2Table s hintv (v.moved k) r) (dispatchAal2Table p hintv v r') := by
  rw [Machine.dispatchAal2Table, Machine.dispatchAal2Table, h.tableAccepts, h.arg]
  split
  · exact sameRouting_emitTable hroute _ _ v k
  · exact sameRouting_emit hroute hkey .raw v k

theorem SamePayload.dispatchAal2 (h : SamePayload s p v k) (noph hintv : Bool) :
    SameRouting k r r' (dispatchAal2 s noph hintv (v.moved k) r) (dispatchAal2 p noph hintv v r') := by
  by_cases hcap : noph = true ∨ 4 ≤ v.len
  · rw [dispatchAal2_of_captured s hintv (v.moved k) r noph hcap, dispatchAal2_of_captured p hintv v r' noph hcap,
      moved_strip]
    exact (h.strip _).dispatchAal2Table hroute hkey hintv
  · obtain ⟨hnoph, hlen⟩ := not_or.mp hcap
    obtain rfl : noph = false := Bool.eq_false_iff.mpr hnoph
    exact .short (dispatchAal2_of_short s hintv (v.moved k) r (Nat.lt_of_not_le hlen))
      (dispatchAal2_of_short p hintv v r' (Nat.lt_of_not_le hlen))

/-- A dispatch decides alike wherever its payload stands (R241 to R254, R282). -/
theorem SamePayload.dispatchPayload (h : SamePayload s p v k) (noph hintv : Bool) (aal : AalKind) :
    SameRouting k (writeAale aal r) (writeAale aal r') (dispatchPayload s noph hintv aal (v.moved k) r)
      (dispatchPayload p noph hintv aal v r') := by
  have hroute' : (writeAale aal r').route = (writeAale aal r).route := hroute
  have hkey' : (writeAale aal r').key = (writeAale aal r).key := hkey
  cases aal with
  | aal5 => exact h.dispatchAal5 hroute' hkey' hintv
  | aal2 => exact h.dispatchAal2 hroute' hkey' noph hintv
  | _ => exact sameRouting_emit hroute' hkey' _ v k

end

/-! ### A command that ends in a dispatch -/

/-- The results `r` with what a DISPATCH that left results `u` adds to them, its window `k` bytes further on. -/
def Results.withDispatch (r u : Results) (k : Nat) : Results :=
  { r with
    diag := r.diag ||| u.diag
    cls := r.cls ||| u.cls
    route := u.route
    key := u.key
    outoff := if u.tooShort then 0 else u.outoff + BitVec.ofNat 32 k
    outlen := u.outlen
    outrep := u.outrep }

/-- `AALE` and its flag only add their bits where `AALE` is 0 (R43, R241). -/
theorem writeAale_of_clear (aal : AalKind) (r : Results) (h : r.cls &&& 0x70#32 = 0) :
    writeAale aal r = { r with cls := r.cls ||| (4#32 ||| (aal.code.setWidth 32 <<< 4)) } := by
  rw [writeAale, putField_of_clear r.cls 4 aal.code h, putField_bit_true _ 2 (by decide), BitVec.or_assoc,
    BitVec.or_comm (BitVec.setWidth 32 _ <<< 4)]
  rfl

/-- Command `i` in `s` ends in a dispatch over results `r`, of the payload that `p` holds in a buffer of its own and `s`
holds `k` bytes further on. -/
structure EndsInDispatch (i : Instr) (s p : State) (noph hintv : Bool) (aal : AalKind) (k : Nat) (r : Results) :
    Prop where
  fits : s.Fits
  fitsAlone : p.Fits
  payload : SamePayload s p p.wholeWindow k
  body : bodyOf i s Results.zero = dispatchPayload s noph hintv aal (p.wholeWindow.moved k) r
  unrouted : r.Unrouted
  noWindow : r.NoWindow
  aale_clear : r.cls &&& 0x70#32 = 0

/-- Such a command shows what DISPATCH in `p` shows beside the results it had before (R280, R290). -/
theorem EndsInDispatch.res {i : Instr} {s p t u : State} {noph hintv : Bool} {aal : AalKind} {k : Nat} {r : Results}
    (h : EndsInDispatch i s p noph hintv aal k r) (ht : exec i s = .next t)
    (hd : exec (.dispatch noph hintv aal) p = .next u) :
    t.res = { r.withDispatch u.res k with status := s.endStatus } := by
  obtain ⟨hs, hp, hpay, hbody, ⟨hroute, hkey, -⟩, ⟨hoff, hlen, hrep⟩, hcls⟩ := h
  have hsame : SameRouting k (writeAale aal r) (writeAale aal Results.zero) (bodyOf i s Results.zero)
      (bodyOf (.dispatch noph hintv aal) p Results.zero) := by
    rw [hbody]
    exact hpay.dispatchPayload hroute.symm hkey.symm noph hintv aal
  rw [writeAale_of_clear aal r hcls, writeAale_clear aal _ rfl] at hsame
  cases hsame with
  | short hf hg =>
    obtain rfl := Host.Outcome.next.inj (ht.symm.trans (exec_of_raiseTooShort i s _ hs hf))
    obtain rfl := Host.Outcome.next.inj (hd.symm.trans (exec_of_raiseTooShort _ p _ hp hg))
    simp [State.endsShort, Results.withDispatch, Results.tooShort, hroute, hkey, hoff, hlen, hrep]
  | routed word key v hf hg =>
    obtain rfl := Host.Outcome.next.inj (ht.symm.trans (exec_of_running i s _ hs hf))
    obtain rfl := Host.Outcome.next.inj (hd.symm.trans (exec_of_running _ p _ hp hg))
    simp [State.endsWith, Results.withDispatch, Results.tooShort, Window.moved, BitVec.ofNat_add, BitVec.add_comm]

/-- Every command has a next state (R59, R317). -/
theorem exists_exec (i : Instr) (s : State) : ∃ t, exec i s = .next t := ⟨_, exec_eq_runCommand i s⟩

/-! ### PROCESS_CELL (R280 to R282) -/

/-- The class after the classifier holds its two flags alone (R43, R280). -/
theorem cls_writeOam_parsedResults (ref : RefPoint) (hecp : Bool) (h : BitVec 40) (oam : Bool) :
    (writeOam oam (parsedResults ref hecp h)).cls = 1#32 ||| ((BitVec.ofBool oam).setWidth 32 <<< 1) := by
  rw [writeOam_clear oam _ (by cases hecp <;> rfl)]

/-- The window after the header is the whole buffer that holds the bytes after the header alone, moved (R282). -/
theorem cellWindow_eq_moved (s p : State) (hl : Nat) (hcap : p.capLen = s.capLen - hl)
    (hrep : p.repLen = s.repLen - hl) : s.cellWindow hl = p.wholeWindow.moved hl := by
  rw [State.cellWindow, State.wholeWindow, hcap, hrep, Nat.sub_min_sub_right]
  rfl

/-- The classifier's answer for the header as read (R175, R182). -/
def State.oamOfHeader (s : State) : Bool :=
  oamTable (s.headerNumber.extractLsb' 12 16) (s.headerNumber.extractLsb' 9 3)

/-- PROCESS_CELL past the parse is the dispatch of the bytes after the header, by the effective AAL kind, over the
classifier's result on the fields as read (R175, R280, R281). -/
theorem bodyOf_processCell (s : State) (ref : RefPoint) (hecp noph hintv : Bool) (aal : AalKind)
    (hcap : 4 + hecp.toNat ≤ s.capLen) :
    bodyOf (.processCell ref hecp noph hintv aal) s Results.zero =
      dispatchPayload s noph hintv (effAal aal s.oamOfHeader) (s.cellWindow (4 + hecp.toNat))
        (writeOam s.oamOfHeader (parsedResults ref hecp s.headerNumber)) := by
  rw [bodyOf, processCellBody_of_captured s ref hecp noph hintv aal hcap, classifyAndDispatch, vci_parsedResults,
    pti_parsedResults, isOam_eq_oamTable]
  rfl

/-- PROCESS_CELL past the parse ends in a dispatch of the bytes after the header (R280, R282). -/
theorem endsInDispatch_processCell (s p : State) (ref : RefPoint) (hecp noph hintv : Bool) (aal : AalKind)
    (hfits : s.Fits) (hcap : 4 + hecp.toNat ≤ s.capLen) (hpcap : p.capLen = s.capLen - (4 + hecp.toNat))
    (hprep : p.repLen = s.repLen - (4 + hecp.toNat)) (harg : p.req.arg = s.req.arg)
    (hbyte : ∀ k, k < p.capLen → p.dataByte k = s.dataByte (4 + hecp.toNat + k)) :
    EndsInDispatch (.processCell ref hecp noph hintv aal) s p noph hintv (effAal aal s.oamOfHeader) (4 + hecp.toNat)
      (writeOam s.oamOfHeader (parsedResults ref hecp s.headerNumber)) where
  fits := hfits
  fitsAlone := le_trans (by omega) hfits
  payload := by
    refine ⟨harg, fun i hi => ?_⟩
    have hi' : i < min p.capLen p.repLen := hi
    simpa [State.wholeWindow] using hbyte i (by omega)
  body := by rw [bodyOf_processCell s ref hecp noph hintv aal hcap, cellWindow_eq_moved s p _ hpcap hprep]
  unrouted := (unrouted_parsedResults ref hecp _).writeOam _
  noWindow := (noWindow_parsedResults ref hecp _).writeOam _
  aale_clear := by
    rw [cls_writeOam_parsedResults]
    cases s.oamOfHeader <;> decide

/-- Settles O35: the payload stands in `p` from index 0 on, and in `s` behind the header. -/
theorem processCellIsParseClassifyDispatch : Obligations.ProcessCellIsParseClassifyDispatch := by
  intro s p ref hecp noph hintv aal hfits hcap hpcap hprep harg hbyte oam aale parsed
  have haale : aale = effAal aal oam := (effAal_eq aal oam).symm
  obtain ⟨t, ht⟩ := exists_exec (.processCell ref hecp noph hintv aal) s
  obtain ⟨u, hd⟩ := exists_exec (.dispatch noph hintv aale) p
  refine ⟨t, u, ht, hd, ?_, noCommandWritesDataOrRequests s t _ ht⟩
  rw [haale] at hd
  rw [(endsInDispatch_processCell s p ref hecp noph hintv aal hfits hcap hpcap hprep harg hbyte).res ht hd,
    Results.withDispatch, cls_writeOam_parsedResults, BitVec.or_comm _ u.res.cls, ← BitVec.or_assoc]
  rfl

/-! ### PROCESS_PDU (R290) -/

/-- The trailer function over the cell count: each writes what it writes on cleared results (R11, R202, R206). -/
theorem aal5Results_cellCount (s : State) (aal : AalKind) :
    aal5Results s aal (cellCount s Results.zero) = { aal5Results s aal Results.zero with
      cells := (cellCount s Results.zero).cells
      aal5st := (aal5Results s aal Results.zero).aal5st ||| (cellCount s Results.zero).aal5st } := by
  have hcount : ∃ (cells : Bool) (n : Word),
      cellCount s Results.zero = { Results.zero with cells := n, aal5st := if cells then 4#32 else 0#32 } := by
    rw [cellCount_zero]
    split
    · exact ⟨true, _, rfl⟩
    · exact ⟨false, _, rfl⟩
  obtain ⟨cells, n, hc⟩ := hcount
  rw [hc]
  by_cases hg : TrailerGuards s aal
  · have hzero := aal5Results_of_present s aal false 0 hg
    rw [show aal5Results s aal Results.zero = _ from hzero, aal5Results_of_present s aal cells n hg]
    simp
  · rw [aal5Results_of_absent s aal _ hg, aal5Results_of_absent s aal _ hg]
    simp

/-- The window that the trailer function hands on starts at 0, and its lengths fit the window registers (R205, R208). -/
theorem aal5Window_bounds (s : State) (aal : AalKind) :
    (aal5Window s aal).off = 0 ∧ (aal5Window s aal).len ≤ (aal5Window s aal).rep ∧
      (aal5Window s aal).rep < 2 ^ 32 := by
  by_cases hg : TrailerGuards s aal
  · rw [aal5Window_of_present s aal hg]
    have hcap : s.capLen < 2 ^ 32 := s.req.caplen.isLt
    exact ⟨rfl, le_rfl, lt_of_le_of_lt (Nat.le_of_add_right_le hg.g4.2) hcap⟩
  · rw [aal5Window_of_absent s aal hg]
    exact ⟨rfl, Nat.min_le_right _ _, s.req.replen.isLt⟩

/-- A buffer with the two lengths of that window captures it and is, as a whole, that window. -/
theorem wholeWindow_eq_aal5Window (s p : State) (aal : AalKind)
    (hcap : p.req.caplen = BitVec.ofNat 32 (aal5Window s aal).len)
    (hrep : p.req.replen = BitVec.ofNat 32 (aal5Window s aal).rep) :
    p.capLen = (aal5Window s aal).len ∧ p.wholeWindow = aal5Window s aal := by
  obtain ⟨hoff, hle, hlt⟩ := aal5Window_bounds s aal
  have hpcap : p.capLen = (aal5Window s aal).len := by
    rw [State.capLen, hcap, BitVec.toNat_ofNat, Nat.mod_eq_of_lt (lt_of_le_of_lt hle hlt)]
  have hprep : p.repLen = (aal5Window s aal).rep := by
    rw [State.repLen, hrep, BitVec.toNat_ofNat, Nat.mod_eq_of_lt hlt]
  refine ⟨hpcap, ?_⟩
  rw [State.wholeWindow, hpcap, hprep, Nat.min_eq_left hle, ← hoff]

/-- The trailer function and the cell count leave the class at 0 (R291). -/
theorem cls_pdu (s : State) (aal : AalKind) : (aal5Results s aal (cellCount s Results.zero)).cls = 0#32 := by
  obtain ⟨_, _, _, _, _, _, h⟩ := pdu_frame s aal
  rw [h]
  rfl

/-- PROCESS_PDU ends in a dispatch of the window that the trailer function hands on (R290). -/
theorem endsInDispatch_processPdu (s p : State) (noph hintv : Bool) (aal : AalKind) (hfits : s.Fits)
    (hcap : p.req.caplen = BitVec.ofNat 32 (aal5Window s aal).len)
    (hrep : p.req.replen = BitVec.ofNat 32 (aal5Window s aal).rep) (harg : p.req.arg = s.req.arg)
    (hbyte : ∀ k, k < p.capLen → p.dataByte k = s.dataByte k) :
    EndsInDispatch (.processPdu noph hintv aal) s p noph hintv aal 0
      (aal5Results s aal (cellCount s Results.zero)) := by
  obtain ⟨hpcap, hwin⟩ := wholeWindow_eq_aal5Window s p aal hcap hrep
  refine ⟨hfits, ?_, ⟨harg, fun i hi => ?_⟩, ?_, unrouted_pdu s aal, (noWindow_cellCount s).aal5Results s aal, ?_⟩
  · have hinside := aal5Window_inside s aal
    exact le_trans (by omega) hfits
  · rw [hwin, ← hpcap] at hi
    simpa [State.wholeWindow] using hbyte i hi
  · rw [moved_zero, hwin]
    rfl
  · rw [cls_pdu]
    decide

/-- A window that starts where the payload does is moved by 0 (R241, R290). -/
theorem outoff_moved_zero (p u : State) (noph hintv : Bool) (aal : AalKind) (hp : p.Fits)
    (hd : exec (.dispatch noph hintv aal) p = .next u) :
    (if u.res.tooShort then 0 else u.res.outoff + BitVec.ofNat 32 0) = u.res.outoff := by
  split
  · next h => exact (nothingRouted_of_tooShort (.dispatch noph hintv aal) p u trivial hp hd h).noWindow.outoff.symm
  · exact BitVec.add_zero _

/-- Settles O39: the trailer function and the count write beside each other, and the dispatch is that of the window
they hand on. -/
theorem processPduIsCountTrailerDispatch : Obligations.ProcessPduIsCountTrailerDispatch := by
  intro s p noph hintv aal hfits
  obtain ⟨t, ht⟩ := exists_exec (.processPdu noph hintv aal) s
  refine ⟨t, _, _, ht, exec_of_running .cellCount s _ hfits rfl, exec_of_running (.aal5Trailer aal) s _ hfits rfl,
    fun hcap hrep harg hbyte => ?_⟩
  obtain ⟨u, hd⟩ := exists_exec (.dispatch noph hintv aal) p
  refine ⟨u, hd, ?_, noCommandWritesDataOrRequests s t _ ht⟩
  have hends := endsInDispatch_processPdu s p noph hintv aal hfits hcap hrep harg hbyte
  rw [hends.res ht hd, Results.withDispatch, cls_pdu, BitVec.zero_or,
    outoff_moved_zero p u noph hintv aal hends.fitsAlone hd, aal5Results_cellCount]
  rfl

/-! ### A signalling PDU (R293) -/

/-- The trailer function does not tell signalling from AAL5 (R201, R293). -/
theorem aal5Results_signalling (s : State) (r : Results) : aal5Results s .signallingAal r = aal5Results s .aal5 r := rfl

/-- The flag of the cell count lies beside the fields of the trailer (R46, R206). -/
theorem status_aal5Results_cellCount (s : State) (aal : AalKind) :
    (aal5Results s aal (cellCount s Results.zero)).trlp = (aal5Results s aal Results.zero).trlp ∧
      (aal5Results s aal (cellCount s Results.zero)).crcok = (aal5Results s aal Results.zero).crcok ∧
      (aal5Results s aal (cellCount s Results.zero)).pad = (aal5Results s aal Results.zero).pad := by
  have beside : ∀ x : Word, (x ||| 4#32).getLsbD 0 = x.getLsbD 0 ∧ (x ||| 4#32).getLsbD 1 = x.getLsbD 1 ∧
      getField (x ||| 4#32) 8 8 = getField x 8 8 := fun x =>
    ⟨by simp, by simp, by simp [getField, BitVec.extractLsb'_or]⟩
  rw [aal5Results_cellCount, cellCount_zero]
  split
  · exact beside _
  · simp [Results.trlp, Results.crcok, Results.pad]

/-- Settles O42: the dispatch sends the window of the trailer to `SSCOP`, and the count writes beside the trailer. -/
theorem signallingPduGoesToSscop : Obligations.SignallingPduGoesToSscop := by
  intro s noph hintv hfits
  have hr := (aal5Results_signalling s (cellCount s Results.zero)).trans (aal5Results_cellCount s .aal5)
  obtain ⟨trlp, crcok, pad⟩ := status_aal5Results_cellCount s .aal5
  refine ⟨_, _, exec_of_running (.processPdu noph hintv .signallingAal) s _ hfits rfl,
    exec_of_running (.aal5Trailer .aal5) s _ hfits rfl, getField_putField_same _ _ Route.sscop.code (by decide),
    (congrArg Results.trl0 hr :), (congrArg Results.trl1 hr :), (congrArg Results.crcreg hr :), trlp, crcok, pad,
    (congrArg Results.diag hr :), ?_, fun hg => ?_, fun hg => ?_⟩
  · exact congrArg (BitVec.ofNat 32) (aal5Window_bounds s .signallingAal).1
  · exact ⟨congrArg (fun w : Window => BitVec.ofNat 32 w.len) (aal5Window_of_present s _ hg),
      congrArg (fun w : Window => BitVec.ofNat 32 w.rep) (aal5Window_of_present s _ hg)⟩
  · exact ⟨congrArg (fun w : Window => BitVec.ofNat 32 w.len) (aal5Window_of_absent s _ hg),
      congrArg (fun w : Window => BitVec.ofNat 32 w.rep) (aal5Window_of_absent s _ hg)⟩

end Sys2Proof.Machine
end

section
/-! PROOFS, the family of the exceptions. When each command's flow raises `TooShort`, and what the end of a command and a
bad command make of it (spec/60_exceptions.md R310 to R314). -/

namespace Sys2Proof.Machine

/-! ### Flows that raise `TooShort` on a condition (R310, R312) -/

/-- The flow raises `TooShort` when `short` holds, and has then found no bad CRC; otherwise it goes on without that
diagnostic. -/
def Flow.ShortExactlyOn (f : Flow) (short : Prop) : Prop :=
  (short ∧ ∃ r, f = raiseTooShort r ∧ r.crcBad = false) ∨ (¬ short ∧ ∃ r, f = .running r ∧ r.tooShort = false)

theorem shortExactlyOn_raiseTooShort {short : Prop} {r : Results} (h : short) (hr : r.crcBad = false) :
    (raiseTooShort r).ShortExactlyOn short :=
  .inl ⟨h, r, rfl, hr⟩

theorem shortExactlyOn_running {short : Prop} {r : Results} (h : ¬ short) (hr : r.tooShort = false) :
    (Flow.running r).ShortExactlyOn short :=
  .inr ⟨h, r, rfl, hr⟩

theorem Flow.ShortExactlyOn.congr {f : Flow} {p q : Prop} (h : f.ShortExactlyOn p) (hpq : p ↔ q) :
    f.ShortExactlyOn q :=
  propext hpq ▸ h

/-- Such a flow has ended exactly when it shows the diagnostic (R312). -/
theorem Flow.ShortExactlyOn.tooShort_eq_isEnded {f : Flow} {short : Prop} (h : f.ShortExactlyOn short) :
    f.results.tooShort = f.isEnded := by
  obtain ⟨-, r, rfl, -⟩ | ⟨-, r, rfl, hr⟩ := h
  · exact tooShort_raiseTooShort r
  · exact hr

theorem Flow.ShortExactlyOn.tooShort_iff {f : Flow} {short : Prop} (h : f.ShortExactlyOn short) :
    f.results.tooShort = true ↔ short := by
  obtain ⟨hs, r, rfl, -⟩ | ⟨hs, r, rfl, hr⟩ := h
  · exact iff_of_true (tooShort_raiseTooShort r) hs
  · exact iff_of_false (Bool.eq_false_iff.mp hr) hs

/-- Such a flow never shows both `TOO_SHORT` and `CRC_BAD` (R314). -/
theorem Flow.ShortExactlyOn.tooShort_of_crcBad {f : Flow} {short : Prop} (h : f.ShortExactlyOn short)
    (hbad : f.results.crcBad = true) : f.results.tooShort = false := by
  obtain ⟨-, r, rfl, hr⟩ | ⟨-, r, rfl, hr⟩ := h
  · rw [Results.crcBad, getLsbD_raiseTooShort, show r.diag.getLsbD 3 = false from hr] at hbad
    cases hbad
  · exact hr

/-! ### The bodies of the commands -/

theorem crcBad_zero : Results.zero.crcBad = false := by decide

theorem shortExactlyOn_hecCheckBody (s : State) : (hecCheckBody s Results.zero).ShortExactlyOn (s.capLen < 5) := by
  by_cases h : s.capLen < 5
  · rw [hecCheckBody_of_short s _ h]
    exact shortExactlyOn_raiseTooShort h crcBad_zero
  · rw [hecCheckBody_of_captured s (Nat.le_of_not_lt h)]
    exact shortExactlyOn_running h (hecDiag_bits _).2.1

theorem shortExactlyOn_parseHeader (s : State) (ref : RefPoint) (hecp : Bool) :
    (parseHeader s ref hecp Results.zero).ShortExactlyOn (s.capLen < 4 + hecp.toNat) := by
  by_cases h : s.capLen < 4 + hecp.toNat
  · rw [parseHeader_of_short s ref hecp _ h]
    exact shortExactlyOn_raiseTooShort h crcBad_zero
  · rw [parseHeader_of_captured s ref hecp (Nat.le_of_not_lt h)]
    exact shortExactlyOn_running h (unrouted_parsedResults ref hecp _).running

/-- A dispatch is too short exactly for an AAL2 window without room for its sub-header (R252). A bad CRC is ruled out
where that can happen: AAL2 carries no trailer (R201). -/
theorem shortExactlyOn_dispatchPayload (s : State) (noph hintv : Bool) (aal : AalKind) (w : Window) (r : Results)
    (hu : r.Unrouted) (hcrc : aal = .aal2 → r.crcBad = false) :
    (dispatchPayload s noph hintv aal w r).ShortExactlyOn (aal = .aal2 ∧ noph = false ∧ w.len < 4) := by
  obtain ⟨hs, hf⟩ | ⟨hs, ⟨_, _, _, hf, -⟩⟩ := dispatchPayload_cases s noph hintv aal w r hu.route hu.key
  · rw [hf]
    exact shortExactlyOn_raiseTooShort hs (hcrc hs.1)
  · rw [hf]
    exact shortExactlyOn_running hs hu.running

theorem crcBad_parsedResults (ref : RefPoint) (hecp : Bool) (h : BitVec 40) :
    (parsedResults ref hecp h).crcBad = false := by
  cases hecp with
  | true => exact (hecDiag_bits _).2.2
  | false => exact crcBad_zero

/-- The upgrade to an OAM cell neither makes nor takes an AAL2 payload (R281). -/
theorem effAal_eq_aal2_iff (aal : AalKind) (oam : Bool) : effAal aal oam = .aal2 ↔ aal = .aal2 := by
  cases aal <;> cases oam <;> decide

theorem shortExactlyOn_processCellBody (s : State) (ref : RefPoint) (hecp noph hintv : Bool) (aal : AalKind) :
    (processCellBody ref hecp noph hintv aal s Results.zero).ShortExactlyOn
      (ShortOn s (.processCell ref hecp noph hintv aal)) := by
  by_cases h : s.capLen < 4 + hecp.toNat
  · rw [processCellBody_of_short s ref hecp noph hintv aal _ h]
    exact shortExactlyOn_raiseTooShort (.inl h) crcBad_zero
  · rw [processCellBody_of_captured s ref hecp noph hintv aal (Nat.le_of_not_lt h)]
    refine (shortExactlyOn_dispatchPayload s noph hintv _ _ _ ((unrouted_parsedResults ref hecp _).writeOam _)
      fun _ => crcBad_parsedResults ref hecp s.headerNumber).congr ?_
    rw [effAal_eq_aal2_iff, ShortOn, or_iff_right h]
    rfl

/-- AAL2 carries no trailer (R201). -/
theorem not_trailerGuards_aal2 (s : State) : ¬ TrailerGuards s .aal2 := fun hg => by
  obtain h | h := hg.g1 <;> cases h

theorem shortExactlyOn_processPduBody (s : State) (noph hintv : Bool) (aal : AalKind) :
    (processPduBody noph hintv aal s Results.zero).ShortExactlyOn (ShortOn s (.processPdu noph hintv aal)) := by
  refine (shortExactlyOn_dispatchPayload s noph hintv aal _ _ (unrouted_pdu s aal) ?_).congr
    (and_congr_right ?_)
  · rintro rfl
    rw [aal5Results_of_absent s _ _ (not_trailerGuards_aal2 s), Results.crcBad, diag_cellCount]
    exact crcBad_zero
  · rintro rfl
    rw [aal5Window_of_absent s _ (not_trailerGuards_aal2 s)]
    rfl

/-- The body of every command raises `TooShort` exactly under its condition of R310. -/
theorem shortExactlyOn_bodyOf (i : Instr) (s : State) : (bodyOf i s Results.zero).ShortExactlyOn (ShortOn s i) := by
  cases i with
  | hecCheck => exact shortExactlyOn_hecCheckBody s
  | hdrParse ref hecp => exact shortExactlyOn_parseHeader s ref hecp
  | oamClassify => exact shortExactlyOn_running id (unrouted_zero.writeOam _).running
  | aal5Trailer aal => exact shortExactlyOn_running id (unrouted_zero.aal5Results s aal).running
  | cellCount => exact shortExactlyOn_running id (unrouted_zero.cellCount s).running
  | dispatch noph hintv aal =>
    exact shortExactlyOn_dispatchPayload s noph hintv aal _ _ unrouted_zero fun _ => crcBad_zero
  | processCell ref hecp noph hintv aal => exact shortExactlyOn_processCellBody s ref hecp noph hintv aal
  | processPdu noph hintv aal => exact shortExactlyOn_processPduBody s noph hintv aal

/-! ### TOO_SHORT and the run's records (R310, R312) -/

/-- Settles O47: a command whose capture fits shows the diagnostics of its body. -/
theorem tooShortIsRaisedExactlyForMissingBytes : Obligations.TooShortIsRaisedExactlyForMissingBytes := by
  intro s t i hfits ht
  rw [res_of_exec i s t hfits ht]
  exact (shortExactlyOn_bodyOf i s).tooShort_iff

/-- `BAD_CMD` after a command says that its capture does not fit (R311). -/
theorem badCmd_runCommand (s : State) (body : State → Results → Flow) :
    (runCommand s body).res.badCmd = decide (Config.maxBuf < s.capLen) := by
  rw [Results.badCmd, status_runCommand, badCmd_statusWord]

/-- Settles O49: the end of a command counts an ended flow, which is one that shows `TOO_SHORT`; a bad command counts
itself and shows no diagnostic. -/
theorem runRecordsCountShortAndBadCommands : Obligations.RunRecordsCountShortAndBadCommands := by
  intro s t i ht
  rw [eq_of_exec i s t ht, badCmd_runCommand]
  by_cases hfits : s.Fits
  · rw [runCommand_of_fits s _ hfits, decide_eq_false (Nat.not_lt.mpr hfits)]
    exact ⟨congrArg (s.tooShortCount + Bool.toNat ·) (shortExactlyOn_bodyOf i s).tooShort_eq_isEnded.symm, rfl⟩
  · rw [runCommand_of_not_fits s _ hfits, decide_eq_true (Nat.lt_of_not_le hfits)]
    exact ⟨congrArg (s.tooShortCount + Bool.toNat ·) unrouted_zero.running.symm, rfl⟩

/-! ### Diagnostics that cannot meet (R314) -/

/-- The commands that read a PDU make no HEC check (R283, R290). -/
theorem hec_bodyOf_of_readsPdu (i : Instr) (s : State) (hi : ReadsPdu i) :
    (bodyOf i s Results.zero).results.hec = 0 := by
  cases i with
  | aal5Trailer aal =>
    obtain ⟨_, _, _, _, _, h⟩ := aal5Results_frame s aal Results.zero
    exact (congrArg Results.hec h :)
  | cellCount =>
    show (cellCount s Results.zero).hec = 0
    rw [cellCount_zero]
    split <;> rfl
  | processPdu noph hintv aal =>
    obtain ⟨_, _, _, _, _, _, hframe⟩ := dispatchPayload_frame s noph hintv aal (aal5Window s aal) _ (unrouted_pdu s aal)
    obtain ⟨_, _, _, _, _, _, hpdu⟩ := pdu_frame s aal
    exact (congrArg Results.hec hframe :).trans (congrArg Results.hec hpdu :)
  | _ => exact hi.elim

/-- Legal results without a HEC result show no HEC diagnostic (R39, R42). -/
theorem Results.Legal.hecDiags_of_hec_zero {r : Results} (h : r.Legal) (hz : r.hec = 0) :
    r.hecCorrectable = false ∧ r.hecUncorrectable = false := by
  have hstat : r.hstat = 0 := by rw [Results.hstat, hz]; decide
  rw [Bool.eq_false_iff, Bool.eq_false_iff, Ne, Ne, h.correctable_iff, h.uncorrectable_iff, hstat]
  decide

/-- Settles O48: a bad command leaves its status alone, one result cannot be two, and a command that shows `CRC_BAD`
reads a PDU, which makes no HEC check and has a trailer where it could be too short. -/
theorem diagnosticsThatExcludeEachOther : Obligations.DiagnosticsThatExcludeEachOther := by
  intro s t i ht
  have hlegal : t.res.Legal := eq_of_exec i s t ht ▸ legal_runCommand i s
  have hbad : t.res.badCmd = true → t.res.diag = 0 := fun h => (congrArg Results.diag (hlegal.bad_only_status h) :)
  refine ⟨hbad, fun ⟨hcorr, huncorr⟩ => ?_, fun hcrc => ?_⟩
  · have hstat := (hlegal.correctable_iff.mp hcorr).symm.trans (hlegal.uncorrectable_iff.mp huncorr)
    exact absurd hstat (by decide)
  · have hpdu : ReadsPdu i := by
      by_contra hi
      obtain ⟨-, -, -, -, -, hnot⟩ := noTrailerOutsidePduCommands s t i hi ht
      exact absurd hcrc (Bool.eq_false_iff.mp hnot)
    have hfits : s.Fits := by
      by_contra hnot
      have hb : t.res.badCmd = true := by
        rw [eq_of_exec i s t ht, badCmd_runCommand, decide_eq_true (Nat.lt_of_not_le hnot)]
      rw [Results.crcBad, hbad hb] at hcrc
      exact absurd hcrc (Bool.eq_false_iff.mp crcBad_zero)
    have hres := res_of_exec i s t hfits ht
    have hhec : t.res.hec = 0 := (congrArg Results.hec hres :).trans (hec_bodyOf_of_readsPdu i s hpdu)
    refine ⟨?_, hlegal.hecDiags_of_hec_zero hhec⟩
    rw [hres] at hcrc ⊢
    exact (shortExactlyOn_bodyOf i s).tooShort_of_crcBad hcrc

/-! ### Bad commands (R311) -/

/-- A word that decodes to no command, and any word while the capture does not fit, is a bad command (R311). -/
theorem startCommand_of_bad (s : State) (w : Word) (h : (∃ b, decodeWord w = .bad b) ∨ ¬ s.Fits) :
    startCommand s w = .next (s.setCmd w).endsBad := by
  cases hd : decodeWord w with
  | bad b => rw [startCommand_bad s w b hd, badCommand_eq]
  | instr i =>
    have hfits : ¬ (s.setCmd w).Fits := h.resolve_left fun ⟨b, hb⟩ => by rw [hb] at hd; cases hd
    rw [startCommand_instr s w i hd, exec_eq_runCommand, runCommand_of_not_fits _ _ hfits]

/-- `RES_STATUS` of a bad command: `DONE` and `BAD_CMD`, with `LASTOP` beside them (R38, R311). -/
theorem endStatus_or_badCmd (s : State) : s.endStatus ||| 0x2#32 = 0x3#32 ||| ((s.req.cmd &&& 0xF#32) <<< 4) := by
  rw [State.endStatus, BitVec.or_comm, ← BitVec.or_assoc]
  rfl

/-- Settles O12: the step stores the word, which is bad by itself or by the capture's length. -/
theorem badCommandOnlySetsStatus : Obligations.BadCommandOnlySetsStatus := by
  intro s es w hp h
  have hbad : (∃ b, decodeWord w = .bad b) ∨ ¬ (s.setPending es).Fits := by
    obtain hr | ho | ho | hf := h
    · exact .inl (decodeWord_of_bad w (.inl hr))
    · exact .inl (decodeWord_of_bad w (.inr (.inl ho)))
    · exact .inl (decodeWord_of_bad w (.inr (.inr ho)))
    · exact .inr hf
  rw [step_command s w es hp, startCommand_of_bad _ w hbad, State.endsBad, endStatus_or_badCmd]
  rfl

end Sys2Proof.Machine
end

section
/-! PROOFS, the family of the reset. The whole state after a reset event, and the invariant of the state after reset
(spec/70_reset_and_hazards.md R340, R342). -/

namespace Sys2Proof.Machine

/-- The platform's reset clears the registers and `DATA`, draws anew and leaves the host's side and the run's records
alone (R340; logs 4, 6). -/
theorem State.afterReset_eq (s : State) :
    s.afterReset = { s with
      req := Request.zero, res := Results.zero, data := [], resetDraw := s.resetDraw + 1 } := rfl

/-- Settles O6: the event is taken from those to come, and the reset of what is left runs nothing. -/
theorem resetEventClearsEveryRegister : Obligations.ResetEventClearsEveryRegister := by
  intro s es h
  rw [step_reset s es h, State.afterReset_eq]
  rfl

/-- Settles O50: nothing is written in `DATA` after reset, and results that are all 0 are legal. -/
theorem invariantHoldsAfterReset : Obligations.InvariantHoldsAfterReset := by
  obtain ⟨hcanonical, hinWindow⟩ := reset_data_wf
  exact ⟨hcanonical, hinWindow, legal_zero⟩

end Sys2Proof.Machine
end
